-- ==== Sys2Proof/Word.lean ====
section
/-! DEFINITION. The widths AUXHS fixes (00_scope.md R7, R9, R10; 30_encoding.md R81): a data byte is 8 bits,
an operation word, a result word and a counter are 32 bits, a status mask is 4 bits, an `inst` field is 2 bits. -/

namespace Sys2Proof

/-- A data byte, 8 bits (R7). -/
abbrev Byte := BitVec 8

/-- An operation word, a result word, a statistics counter, `FAULT`: 32 bits (R7, R23). -/
abbrev Word := BitVec 32

/-- A mask over the four interrupt sources, 4 bits (R9, R10). -/
abbrev Mask := BitVec 4

/-- An instance index as the 2-bit `inst` field holds it, 0 to 3 (R81). -/
abbrev InstId := BitVec 2

end Sys2Proof
end

