-- ==== Sys2Proof/Syntax.lean ====
section
/-! DEFINITION. The 25 operations of AUXHS, one constructor per row of spec/opcode_table.json
(30_encoding.md R84), with their operands as R82 and R83 lay them out, and their assembly text (R88). -/

namespace Sys2Proof

/-- One operation word's meaning as syntax. `i` is the `inst` field. -/
inductive Instr where
  /-- `BAVAIL i`: byte-available() (R100). -/
  | bavail (i : InstId)
  /-- `RDBYTE i`: read-byte() (R101). -/
  | rdbyte (i : InstId)
  /-- `SAVAIL i`: space-available() (R103). -/
  | savail (i : InstId)
  /-- `WRBYTE i, imm8`: write-byte(b) (R104). -/
  | wrbyte (i : InstId) (imm8 : Byte)
  /-- `INTSTAT i, flag`: interrupt-status(masked) (R105). -/
  | intstat (i : InstId) (flag : Bool)
  /-- `INTEN i, mask`: interrupt-enable(mask) (R106). -/
  | inten (i : InstId) (mask : Mask)
  /-- `INTDIS i, mask`: interrupt-disable(mask) (R107). -/
  | intdis (i : InstId) (mask : Mask)
  /-- `INTCLR i, mask`: interrupt-clear(mask) (R108). -/
  | intclr (i : InstId) (mask : Mask)
  /-- `BUSY i`: busy() (R109). -/
  | busy (i : InstId)
  /-- `TXPUT i, imm8`: append to the main TX buffer (R126). -/
  | txput (i : InstId) (imm8 : Byte)
  /-- `RXGET i`: take from the main RX buffer (R127). -/
  | rxget (i : InstId)
  /-- `IRQ i`: the hardware vector is fired (R141). -/
  | irq (i : InstId)
  /-- `ISTEP i`: one micro-operation of the Interrupt Handler (R142). -/
  | istep (i : InstId)
  /-- `DISPATCH i`: request a dispatch pass from task code (R160). -/
  | dispatch (i : InstId)
  /-- `PSTEP i`: one micro-operation of a dispatch pass (R161). -/
  | pstep (i : InstId)
  /-- `INIT i, cfg`: initialise and bind the driver (R200). -/
  | init (i : InstId) (rxFc txFc : Bool) (lingerUs : BitVec 22)
  /-- `DEINIT i`: unbind and drop the driver (R203). -/
  | deinit (i : InstId)
  /-- `SETRXEN i, flag`: set-receive-enabled (R205). -/
  | setrxen (i : InstId) (flag : Bool)
  /-- `FLUSH i`: flush-until-idle (R207). -/
  | flush (i : InstId)
  /-- `RDCSR i, csr`: read one control and status register (R208). -/
  | rdcsr (i : InstId) (csr : Byte)
  /-- `RXARRIVE i, imm8`: a byte arrives from the line (R221). -/
  | rxarrive (i : InstId) (imm8 : Byte)
  /-- `RXTIMEOUT i`: the receive timeout expires (R222). -/
  | rxtimeout (i : InstId)
  /-- `RXLEVEL i`: the receive level condition is re-signalled (R223). -/
  | rxlevel (i : InstId)
  /-- `TXSHIFT i`: a byte leaves the hardware (R224). -/
  | txshift (i : InstId)
  /-- `TXLEVEL i`: the transmit level condition is re-signalled (R225). -/
  | txlevel (i : InstId)
deriving DecidableEq, Repr

/-- The `inst` field of the operation (R81). -/
def Instr.inst : Instr → InstId
  | .bavail i => i
  | .rdbyte i => i
  | .savail i => i
  | .wrbyte i _ => i
  | .intstat i _ => i
  | .inten i _ => i
  | .intdis i _ => i
  | .intclr i _ => i
  | .busy i => i
  | .txput i _ => i
  | .rxget i => i
  | .irq i => i
  | .istep i => i
  | .dispatch i => i
  | .pstep i => i
  | .init i _ _ _ => i
  | .deinit i => i
  | .setrxen i _ => i
  | .flush i => i
  | .rdcsr i _ => i
  | .rxarrive i _ => i
  | .rxtimeout i => i
  | .rxlevel i => i
  | .txshift i => i
  | .txlevel i => i

/-- The agent that issues an operation (00_scope.md R13; the "port" column of R84, with the scheduler's words
told apart: `IRQ` and `ISTEP` run in interrupt context, `DISPATCH` and `PSTEP` in task context). -/
inductive Agent where
  /-- The peripheral (45_peripheral_events.md). -/
  | peripheral
  /-- The interrupt sequencer. -/
  | interrupt
  /-- The dispatch sequencer. -/
  | dispatch
  /-- All other task-context software. -/
  | host
deriving DecidableEq, Repr

/-- Which agent issues the operation (R13). -/
def Instr.agent : Instr → Agent
  | .bavail _ => .host
  | .rdbyte _ => .host
  | .savail _ => .host
  | .wrbyte _ _ => .host
  | .intstat _ _ => .host
  | .inten _ _ => .host
  | .intdis _ _ => .host
  | .intclr _ _ => .host
  | .busy _ => .host
  | .txput _ _ => .host
  | .rxget _ => .host
  | .irq _ => .interrupt
  | .istep _ => .interrupt
  | .dispatch _ => .host
  | .pstep _ => .dispatch
  | .init _ _ _ _ => .host
  | .deinit _ => .host
  | .setrxen _ _ => .host
  | .flush _ => .host
  | .rdcsr _ _ => .host
  | .rxarrive _ _ => .peripheral
  | .rxtimeout _ => .peripheral
  | .rxlevel _ => .peripheral
  | .txshift _ => .peripheral
  | .txlevel _ => .peripheral

/-- The task-context words of 60_exceptions.md R241: every host word and `PSTEP`. -/
def Instr.isTask (i : Instr) : Bool := i.agent == .host || i.agent == .dispatch

/-- The mnemonic, as spec/opcode_table.json spells it. -/
def Instr.mnemonic : Instr → String
  | .bavail _ => "BAVAIL"
  | .rdbyte _ => "RDBYTE"
  | .savail _ => "SAVAIL"
  | .wrbyte _ _ => "WRBYTE"
  | .intstat _ _ => "INTSTAT"
  | .inten _ _ => "INTEN"
  | .intdis _ _ => "INTDIS"
  | .intclr _ _ => "INTCLR"
  | .busy _ => "BUSY"
  | .txput _ _ => "TXPUT"
  | .rxget _ => "RXGET"
  | .irq _ => "IRQ"
  | .istep _ => "ISTEP"
  | .dispatch _ => "DISPATCH"
  | .pstep _ => "PSTEP"
  | .init _ _ _ _ => "INIT"
  | .deinit _ => "DEINIT"
  | .setrxen _ _ => "SETRXEN"
  | .flush _ => "FLUSH"
  | .rdcsr _ _ => "RDCSR"
  | .rxarrive _ _ => "RXARRIVE"
  | .rxtimeout _ => "RXTIMEOUT"
  | .rxlevel _ => "RXLEVEL"
  | .txshift _ => "TXSHIFT"
  | .txlevel _ => "TXLEVEL"

end Sys2Proof
end

