-- ==== Sys2Proof/WellFormed.lean ====
section
/-! DEFINITION. When an operation is a legal one (30_encoding.md R86). Every operand but one is legal at every
value of its field; a `csr` number must be one of the 23 of 10_state.md R40. -/

namespace Sys2Proof

/-- The CSR numbers of 10_state.md R40 are 0x00 to 0x16; the rest are reserved. -/
def csrListed (csr : Byte) : Bool := csr.toNat ≤ 0x16

/-- A legal operation (R86): the one check is the CSR number of `RDCSR`. -/
def Instr.wf : Instr → Bool
  | .bavail _ => true
  | .rdbyte _ => true
  | .savail _ => true
  | .wrbyte _ _ => true
  | .intstat _ _ => true
  | .inten _ _ => true
  | .intdis _ _ => true
  | .intclr _ _ => true
  | .busy _ => true
  | .txput _ _ => true
  | .rxget _ => true
  | .irq _ => true
  | .istep _ => true
  | .dispatch _ => true
  | .pstep _ => true
  | .init _ _ _ _ => true
  | .deinit _ => true
  | .setrxen _ _ => true
  | .flush _ => true
  | .rdcsr _ csr => csrListed csr
  | .rxarrive _ _ => true
  | .rxtimeout _ => true
  | .rxlevel _ => true
  | .txshift _ => true
  | .txlevel _ => true

end Sys2Proof
end

