-- ==== Sys2Proof/Decode.lean ====
section
/-! DEFINITION. From words to operations and back (30_encoding.md R80 to R88), and words as bytes
(20_memory.md R62). The decoder is total and rejects an illegal word by name. -/

namespace Sys2Proof

/-- Why a word is illegal (R86). Each is the model fault `IllegalWord` (code 1) when the word is applied. -/
inductive DecodeError where
  /-- `opc` is not one of the 25 of R84. -/
  | reservedOpcode
  /-- A reserved operand bit of the operation's format is 1. -/
  | reservedOperandBit
  /-- `RDCSR` of a number that 10_state.md R40 does not list. -/
  | reservedCsr
deriving DecidableEq, Repr

/-! ## Fields of a word (R81, R82) -/

/-- `opc`, word[31:26]. -/
def opcOf (w : Word) : BitVec 6 := w.extractLsb' 26 6

/-- `inst`, word[25:24]. -/
def instOf (w : Word) : InstId := w.extractLsb' 24 2

/-- `operand`, word[23:0]. -/
def operandOf (w : Word) : BitVec 24 := w.extractLsb' 0 24

/-- Format N: all of [23:0] reserved. -/
def decodeN (w : Word) (k : InstId → Instr) : Except DecodeError Instr :=
  if operandOf w = 0 then .ok (k (instOf w)) else .error .reservedOperandBit

/-- Format B: [23:8] reserved, [7:0] `imm8`. -/
def decodeB (w : Word) (k : InstId → Byte → Instr) : Except DecodeError Instr :=
  if (operandOf w).extractLsb' 8 16 = 0 then .ok (k (instOf w) ((operandOf w).extractLsb' 0 8))
  else .error .reservedOperandBit

/-- Format M: [23:4] reserved, [3:0] `mask`. -/
def decodeM (w : Word) (k : InstId → Mask → Instr) : Except DecodeError Instr :=
  if (operandOf w).extractLsb' 4 20 = 0 then .ok (k (instOf w) ((operandOf w).extractLsb' 0 4))
  else .error .reservedOperandBit

/-- Format F: [23:1] reserved, [0] `flag`. -/
def decodeF (w : Word) (k : InstId → Bool → Instr) : Except DecodeError Instr :=
  if (operandOf w).extractLsb' 1 23 = 0 then .ok (k (instOf w) ((operandOf w).getLsbD 0))
  else .error .reservedOperandBit

/-- Format R: [23:8] reserved, [7:0] `csr`, a number of 10_state.md R40. -/
def decodeR (w : Word) (k : InstId → Byte → Instr) : Except DecodeError Instr :=
  if (operandOf w).extractLsb' 8 16 = 0 then
    if csrListed ((operandOf w).extractLsb' 0 8) then .ok (k (instOf w) ((operandOf w).extractLsb' 0 8))
    else .error .reservedCsr
  else .error .reservedOperandBit

/-- Format C: [23] `rx_fc`, [22] `tx_fc`, [21:0] `linger_us`; no reserved bit. -/
def decodeC (w : Word) (k : InstId → Bool → Bool → BitVec 22 → Instr) : Except DecodeError Instr :=
  .ok (k (instOf w) ((operandOf w).getLsbD 23) ((operandOf w).getLsbD 22) ((operandOf w).extractLsb' 0 22))

/-- The decoder (R84, R85, R86). -/
def decode (w : Word) : Except DecodeError Instr :=
  match (opcOf w).toNat with
  | 0x01 => decodeN w .bavail
  | 0x02 => decodeN w .rdbyte
  | 0x03 => decodeN w .savail
  | 0x04 => decodeB w .wrbyte
  | 0x05 => decodeF w .intstat
  | 0x06 => decodeM w .inten
  | 0x07 => decodeM w .intdis
  | 0x08 => decodeM w .intclr
  | 0x09 => decodeN w .busy
  | 0x10 => decodeB w .txput
  | 0x11 => decodeN w .rxget
  | 0x18 => decodeN w .irq
  | 0x19 => decodeN w .istep
  | 0x1A => decodeN w .dispatch
  | 0x1B => decodeN w .pstep
  | 0x20 => decodeC w .init
  | 0x21 => decodeN w .deinit
  | 0x22 => decodeF w .setrxen
  | 0x23 => decodeN w .flush
  | 0x24 => decodeR w .rdcsr
  | 0x30 => decodeB w .rxarrive
  | 0x31 => decodeN w .rxtimeout
  | 0x32 => decodeN w .rxlevel
  | 0x33 => decodeN w .txshift
  | 0x34 => decodeN w .txlevel
  | _ => .error .reservedOpcode

/-! ## The encoder (R84, R85) -/

/-- `opc` of an operation (R84). -/
def Instr.opc : Instr → BitVec 6
  | .bavail _ => 0x01
  | .rdbyte _ => 0x02
  | .savail _ => 0x03
  | .wrbyte _ _ => 0x04
  | .intstat _ _ => 0x05
  | .inten _ _ => 0x06
  | .intdis _ _ => 0x07
  | .intclr _ _ => 0x08
  | .busy _ => 0x09
  | .txput _ _ => 0x10
  | .rxget _ => 0x11
  | .irq _ => 0x18
  | .istep _ => 0x19
  | .dispatch _ => 0x1A
  | .pstep _ => 0x1B
  | .init _ _ _ _ => 0x20
  | .deinit _ => 0x21
  | .setrxen _ _ => 0x22
  | .flush _ => 0x23
  | .rdcsr _ _ => 0x24
  | .rxarrive _ _ => 0x30
  | .rxtimeout _ => 0x31
  | .rxlevel _ => 0x32
  | .txshift _ => 0x33
  | .txlevel _ => 0x34

/-- The 24-bit operand field of an operation, by its format (R82). -/
def Instr.operand : Instr → BitVec 24
  | .bavail _ => 0
  | .rdbyte _ => 0
  | .savail _ => 0
  | .wrbyte _ b => b.setWidth 24
  | .intstat _ f => (BitVec.ofBool f).setWidth 24
  | .inten _ m => m.setWidth 24
  | .intdis _ m => m.setWidth 24
  | .intclr _ m => m.setWidth 24
  | .busy _ => 0
  | .txput _ b => b.setWidth 24
  | .rxget _ => 0
  | .irq _ => 0
  | .istep _ => 0
  | .dispatch _ => 0
  | .pstep _ => 0
  | .init _ rxFc txFc l => BitVec.ofBool rxFc ++ BitVec.ofBool txFc ++ l
  | .deinit _ => 0
  | .setrxen _ f => (BitVec.ofBool f).setWidth 24
  | .flush _ => 0
  | .rdcsr _ n => n.setWidth 24
  | .rxarrive _ b => b.setWidth 24
  | .rxtimeout _ => 0
  | .rxlevel _ => 0
  | .txshift _ => 0
  | .txlevel _ => 0

/-- `word = (opc << 26) | (inst << 24) | operand` (R85), written as the concatenation of the three fields. -/
def encode (i : Instr) : Word := i.opc ++ i.inst ++ i.operand

/-! ## Words as bytes (R62) -/

/-- A word stored or sent as bytes: the least significant byte first (R62). -/
def wordToBytes (w : Word) : List Byte :=
  [w.extractLsb' 0 8, w.extractLsb' 8 8, w.extractLsb' 16 8, w.extractLsb' 24 8]

/-- The word that four bytes, least significant first, stand for; `none` for any other number of bytes. -/
def wordOfBytes : List Byte → Option Word
  | [b0, b1, b2, b3] => some (b3 ++ b2 ++ b1 ++ b0)
  | _ => none

/-- The decoder over bytes: an operation is exactly one word (R80). -/
def decodeBytes (bs : List Byte) : Option Instr :=
  (wordOfBytes bs).bind fun w => (decode w).toOption

/-- The operation the decoder reads from the bits `w` of an opcode-table row of `nbits` bits, every bit above
them 0: the word is laid out as bytes (R62) and those bytes are decoded. -/
def decodeTableWord (nbits w : Nat) : Option Instr :=
  decodeBytes (wordToBytes (BitVec.ofNat 32 (w % 2 ^ nbits)))

/-! ## Assembly text (R88) -/

/-- Whether the operation's format has an operand (R82: every format but N). -/
def Instr.hasOperand : Instr → Bool
  | .wrbyte _ _ | .intstat _ _ | .inten _ _ | .intdis _ _ | .intclr _ _ | .txput _ _ | .init _ _ _ _
  | .setrxen _ _ | .rdcsr _ _ | .rxarrive _ _ => true
  | .bavail _ | .rdbyte _ | .savail _ | .busy _ | .rxget _ | .irq _ | .istep _ | .dispatch _ | .pstep _
  | .deinit _ | .flush _ | .rxtimeout _ | .rxlevel _ | .txshift _ | .txlevel _ => false

/-- `MNEMONIC inst` or `MNEMONIC inst, operand`, numbers in decimal (R88). -/
def Instr.asm (i : Instr) : String :=
  i.mnemonic ++ " " ++ toString i.inst.toNat ++
    (if i.hasOperand then ", " ++ toString i.operand.toNat else "")

end Sys2Proof
end

