-- ==== Sys2Proof/Config.lean ====
section
/-! DEFINITION. What an implementation of AUXHS fixes, as one record (00_scope.md R6), and the free values:
constants with no body that stand for what the spec leaves unspecified (93_implementation_defined.md U21, U22). -/

namespace Sys2Proof

/-- The configuration record of 00_scope.md R6. The spec gives no value for any field (92 D5: OPEN); the only
named configuration is the test configuration TC1 of R8. -/
structure Params where
  /-- `NUM_INST`, the number of physical UART instances. -/
  numInst : Nat
  /-- `FC_SUPPORTED[i]`, whether the instance has flow-control pins. -/
  fcSupported : Vector Bool 4
  /-- `AUX_CAP`. -/
  auxCap : Nat
  /-- `RX_CAP`. -/
  rxCap : Nat
  /-- `TX_CAP`. -/
  txCap : Nat
  /-- `HWRX_DEPTH`. -/
  hwRxDepth : Nat
  /-- `HWTX_DEPTH`. -/
  hwTxDepth : Nat
  /-- `RX_TRIG`. -/
  rxTrig : Nat
  /-- `TX_TRIG`. -/
  txTrig : Nat
  /-- `ITERS_PER_US`, linger polls per microsecond of budget. -/
  itersPerUs : Nat
  /-- `IRQ_PRIO`; no rule reads it (60_exceptions.md R236). -/
  irqPrio : Nat
deriving DecidableEq, Repr

/-- The constraints of the table of 00_scope.md R6. -/
abbrev Params.Wf (p : Params) : Prop :=
  (1 ≤ p.numInst ∧ p.numInst ≤ 4) ∧ 1 ≤ p.auxCap ∧ 1 ≤ p.rxCap ∧ 1 ≤ p.txCap ∧ 1 ≤ p.hwRxDepth ∧
    1 ≤ p.hwTxDepth ∧ (1 ≤ p.rxTrig ∧ p.rxTrig ≤ p.hwRxDepth) ∧ p.txTrig < p.hwTxDepth ∧
    (1 ≤ p.itersPerUs ∧ p.itersPerUs ≤ 1024)

/-- The test configuration TC1 of 00_scope.md R8; `IRQ_PRIO`, which TC1 does not name, is 0 here and read by
no rule. DESIGN CHOICE as the configuration of `State.reset` (log 1); it claims nothing about a device. -/
def Params.tc1 : Params where
  numInst := 2
  fcSupported := #v[true, false, false, false]
  auxCap := 4
  rxCap := 8
  txCap := 8
  hwRxDepth := 4
  hwTxDepth := 4
  rxTrig := 2
  txTrig := 1
  itersPerUs := 1
  irqPrio := 0

/-- Free value: the byte in slot `slot` of a ring buffer just allocated, at the `draw`-th draw
(10_state.md R33, R46 "slots unspecified"; 93 U21 "any value"; log 11). -/
opaque Config.freeByte (draw slot : Nat) : Byte

/-- Free value: the `inst` field of a sequencer that has gone idle (10_state.md R38, R39; 93 U22; log 10). -/
opaque Config.freeInst (draw : Nat) : InstId

/-- Free value: a mask field of the interrupt sequencer while it is idle (R38; U22; log 10). -/
opaque Config.freeMask (draw : Nat) : Mask

/-- Free value: a one-bit field of a sequencer while it is idle (R38, R39; U22; log 10). -/
opaque Config.freeBit (draw : Nat) : Bool

/-- Free value: `pass.linger_left` while no pass is in flight (R39; U22; log 10). -/
opaque Config.freeCount (draw : Nat) : Nat

end Sys2Proof
end

