-- ==== Sys2Proof/Machine/State.lean ====
section
/-! DEFINITION. The state of AUXHS as plain data (10_state.md), the outcomes of a word (00_scope.md R14), the
model faults (60_exceptions.md R231), the machine's two ways to stop, and the power-on state (70 R260). -/

namespace Sys2Proof.Machine

/-! ## Ring buffers and driver state (10_state.md R32 to R37) -/

/-- A ring buffer (R33). The capacity is the length of `store` (log 14). -/
structure Ring where
  /-- The `cap` byte slots, slot 0 first. -/
  store : List Byte
  /-- The slot of the oldest byte. -/
  head : Nat
  /-- The number of bytes held. -/
  used : Nat
deriving DecidableEq, Repr

/-- `CFG[i]` (R32). -/
structure Cfg where
  /-- Receive hardware flow control requested. -/
  rxFc : Bool
  /-- Transmit hardware flow control requested; read by no rule but the read-out. -/
  txFc : Bool
  /-- The receive-linger budget in microseconds. -/
  lingerUs : BitVec 22
deriving DecidableEq, Repr

/-- `STATS[i]`, seven 32-bit counters in the order of R37. -/
structure Stats where
  ints : Word
  rxInts : Word
  txInts : Word
  rxBytes : Word
  txBytes : Word
  rxOverflows : Word
  rxLingerConts : Word
deriving DecidableEq, Repr

/-- The driver state of a bound instance (R20 group (c)). -/
structure Driver where
  /-- `CFG[i]`. -/
  cfg : Cfg
  /-- `rx_enabled[i]` (R36). -/
  rxEnabled : Bool
  /-- `AUX[i]`, the auxiliary buffer (R34). -/
  aux : Ring
  /-- `RXB[i]`, the main RX buffer (R35). -/
  rxb : Ring
  /-- `TXB[i]`, the main TX buffer (R35). -/
  txb : Ring
  /-- `STATS[i]` (R37). -/
  stats : Stats
deriving DecidableEq, Repr

/-! ## One instance (10_state.md R22, R24 to R31, R42) -/

/-- All the state of one instance. -/
structure Uart where
  /-- `RXFIFO[i]`, head = oldest (R24). -/
  rxFifo : List Byte
  /-- `TXFIFO[i]`, head = next to leave (R25). -/
  txFifo : List Byte
  /-- `RIS[i]`, the raw interrupt status (R26). -/
  ris : Mask
  /-- `IM[i]`, the interrupt enable mask (R27). -/
  im : Mask
  /-- `PEN[i]`, peripheral enabled (R29). -/
  pen : Bool
  /-- `RTR[i]`, ready-to-receive (R30). -/
  rtr : Bool
  /-- `disp_req[i]` (R31). -/
  dispReq : Bool
  /-- `TABLE[i]` and the driver state: `none` is unbound, `some d` is bound (R20, R22; log 7). -/
  driver : Option Driver
  /-- `TXLINE[i]`, observation only (R42). -/
  txLine : List Byte
  /-- `RXLOST[i]`, observation only (R42). -/
  rxLost : Nat
deriving DecidableEq, Repr

/-- One instance after power-on (R46): unbound, empty, everything 0. -/
def Uart.powerOn : Uart where
  rxFifo := []
  txFifo := []
  ris := 0
  im := 0
  pen := false
  rtr := false
  dispReq := false
  driver := none
  txLine := []
  rxLost := 0

/-! ## The two sequencers (10_state.md R38, R39) -/

/-- `isr.ph`: the next micro-operation of the Interrupt Handler; `idle` means it is not running (R38). -/
inductive IsrPh where
  | idle | i2 | i3 | i4 | i4l | i5 | i6 | i7a | i7b
deriving DecidableEq, Repr

/-- The interrupt sequencer (R38). While `ph = idle` the other fields are unspecified and unread. -/
structure Isr where
  ph : IsrPh
  /-- The instance being served. -/
  inst : InstId
  /-- The InterruptStatusSnapshot. -/
  snap : Mask
  /-- The computed interrupt-disable mask. -/
  dis : Mask
  /-- Whether any of steps 3 to 5 fired. -/
  fired : Bool
deriving DecidableEq, Repr

/-- `pass.ph`: the next micro-operation of the dispatch pass; `idle` means no pass is in flight (R39). -/
inductive PassPh where
  | idle | r1 | r1l | r2 | r3 | r4 | t1 | t2 | b1
deriving DecidableEq, Repr

/-- The dispatch sequencer (R39). While `ph = idle` the other fields are unspecified and unread. -/
structure Pass where
  ph : PassPh
  /-- The instance being dispatched. -/
  inst : InstId
  /-- Any bytes were received during this pass. -/
  recd : Bool
  /-- The linger polls still allowed in this pass. -/
  lingerLeft : Nat
deriving DecidableEq, Repr

/-! ## Outcomes of a word (00_scope.md R14; 60_exceptions.md R231) -/

/-- The model faults of R231. Raising one is a NEXT state of the machine (R232; log 16). -/
inductive FaultCode where
  /-- 1: raised by any illegal word. -/
  | illegalWord
  /-- 2: `inst ≥ NUM_INST`, or driver state needed on an unbound instance. -/
  | noInstance
  /-- 3: `INIT` of a bound instance. -/
  | doubleInit
  /-- 4: `DEINIT` while a pass on the instance is in flight. -/
  | deinitDuringPass
  /-- 5: `RDBYTE` on an empty FIFO. -/
  | rxFifoUnderrun
  /-- 6: `WRBYTE` on a full FIFO. -/
  | txFifoOverrun
  /-- 7: a move at `R1L` with a receive interrupt unmasked. -/
  | auxRace
deriving DecidableEq, Repr

/-- The code `FAULT` takes (R231). -/
def FaultCode.code : FaultCode → Word
  | .illegalWord => 1
  | .noInstance => 2
  | .doubleInit => 3
  | .deinitDuringPass => 4
  | .rxFifoUnderrun => 5
  | .txFifoOverrun => 6
  | .auxRace => 7

/-- What the last word came to (R14), with the value it drove on the 32-bit result port (R12), if any.
The model's own record of the block's output (log 6). -/
inductive Reply where
  /-- No word has been applied since power-on. -/
  | none
  /-- Outcome ok. -/
  | ok (result : Option Word)
  /-- Outcome hold. -/
  | hold
  /-- Outcome fault, with the fault of this word (`FAULT` keeps the first one, R232). -/
  | fault (c : FaultCode)
deriving DecidableEq, Repr

/-- One entry of the schedule: a word an agent presents, and the environment's draw `alloc_ok` for it
(R14: the step is a function of state, word and draw; log 5). -/
structure PortWord where
  word : Word
  allocOk : Bool
deriving DecidableEq, Repr

/-! ## The whole block -/

/-- The state of AUXHS. `params`, `port`, `allocOk`, `reply` and `draws` are the model's own fields, not the
spec's state (INVENTORY.md, State). -/
structure State where
  /-- The configuration record of R6; nothing writes it (log 1). -/
  params : Params
  /-- Four UART slots; instance `i` exists if `i < NUM_INST` (log 8). -/
  uarts : Vector Uart 4
  /-- `FAULT` (R23). -/
  fault : Word
  /-- The interrupt sequencer (R38). -/
  isr : Isr
  /-- The dispatch sequencer (R39). -/
  pass : Pass
  /-- The words the agents have still to apply (R13, R43; log 2). -/
  port : List PortWord
  /-- The draw that came with the word now applied (log 5). -/
  allocOk : Bool
  /-- The outcome and result of the last word (log 6). -/
  reply : Reply
  /-- How many free values have been drawn (logs 10, 11). -/
  draws : Nat
deriving DecidableEq, Repr

/-- How a step can STOP. Both are raised only in states no run reaches (log 13), and both are safe: the model
stops where the spec's rules have nothing to say. The spec's own faults are `FaultCode`, and go on. -/
inductive Fault where
  /-- Raised by a micro-operation of the handler or of a pass that needs the driver state of its instance
  when the instance is unbound: 60_exceptions.md R245 and 44_host_lifecycle.md R203 rule the state out. Safe. -/
  | driverMissing
  /-- Raised by `T1` when the head of `TXB` is no slot of its store: 10_state.md R44 rules the state out. Safe. -/
  | slotMissing
deriving DecidableEq, Repr

/-- How the model can refuse. No arm of `exec` uses it: every operation has its meaning. -/
inductive Refusal where
  /-- Raised by an arm of `exec` whose instruction has no meaning yet (there is none). Safe. -/
  | notModelled (mnemonic : String)
deriving DecidableEq, Repr

/-- What a meaning answers. -/
abbrev Result := Host.Outcome State Fault Refusal

/-- Power-on reset for a configuration `p` (70_reset_and_hazards.md R260; 10_state.md R46). The fields of the
sequencers other than the phases are unspecified there; they are 0 here (DESIGN CHOICE, log 9). -/
def State.powerOn (p : Params) : State where
  params := p
  uarts := #v[Uart.powerOn, Uart.powerOn, Uart.powerOn, Uart.powerOn]
  fault := 0
  isr := { ph := .idle, inst := 0, snap := 0, dis := 0, fired := false }
  pass := { ph := .idle, inst := 0, recd := false, lingerLeft := 0 }
  port := []
  allocOk := true
  reply := .none
  draws := 0

/-- The machine right after reset, in the configuration TC1 (DESIGN CHOICE, log 1). The port is empty: the
block runs nothing until an agent applies a word (R260; log 2). -/
def State.reset : State := State.powerOn Params.tc1

end Sys2Proof.Machine
end

