-- ==== Sys2Proof/Machine/Flags.lean ====
section
/-! DEFINITION. The flags of AUXHS: the four interrupt status bits (10_state.md R21, R26), the mask constants of
00_scope.md R10, and the three ways rules compute with masks: set, clear, test. -/

namespace Sys2Proof.Machine

/-- `RX`, receive-data-available, bit 0 (R10). -/
def maskRx : Mask := 0b0001
/-- `RT`, receive-timeout, bit 1 (R10). -/
def maskRt : Mask := 0b0010
/-- `TX`, transmit-space-available, bit 2 (R10). -/
def maskTx : Mask := 0b0100
/-- `OE`, receive-overrun, bit 3 (R10). -/
def maskOe : Mask := 0b1000
/-- `RXINTS = RX | RT`, the receive interrupts (R10). -/
def rxInts : Mask := maskRx ||| maskRt
/-- `TXINTS = TX`, the transmit interrupts (R10). -/
def txInts : Mask := maskTx
/-- `ALLINTS` (R10). -/
def allInts : Mask := 0b1111

/-- `x | m`: the named bits become 1, the others stay. -/
def setBits (x m : Mask) : Mask := x ||| m

/-- `x & ~m`: the named bits become 0, the others stay. -/
def clearBits (x m : Mask) : Mask := x &&& ~~~m

/-- `x & m ≠ 0`: at least one of the named bits is 1. -/
def anyBits (x m : Mask) : Bool := x &&& m ≠ 0

/-- `MIS[i] = RIS[i] & IM[i]`, derived, not stored (R28). -/
def Uart.mis (u : Uart) : Mask := u.ris &&& u.im

/-- The interrupt request line of the instance (R28, 60_exceptions.md R235). -/
def Uart.requesting (u : Uart) : Bool := u.mis ≠ 0

/-- The mask the Bottom Half enables (43_dispatch.md R174): `OE` always; the receive interrupts if reception is
enabled and `AUX` has room; the transmit interrupts if `TXB` holds bytes. -/
def rearmMask (rxEnabled auxHasRoom txbHasBytes : Bool) : Mask :=
  maskOe ||| (if rxEnabled && auxHasRoom then rxInts else 0) ||| (if txbHasBytes then txInts else 0)

end Sys2Proof.Machine
end

