-- ==== Sys2Proof/Machine/Operands.lean ====
section
/-! DEFINITION. Operand and result forms: zero-extension of every narrow result (00_scope.md R12, R83), the
wrapping counter arithmetic `inc32`, `add32` (R12, 10_state.md R37), and the configuration operand of `INIT`. -/

namespace Sys2Proof.Machine

/-- `zext_32` of a byte. -/
def zextByte (b : Byte) : Word := b.setWidth 32

/-- `zext_32` of a mask. -/
def zextMask (m : Mask) : Word := m.setWidth 32

/-- `zext_32` of one bit. -/
def zextBit (b : Bool) : Word := (BitVec.ofBool b).setWidth 32

/-- A count read out through a 32-bit register: bits [31:0] of it (10_state.md R40; log 15). -/
def countWord (n : Nat) : Word := BitVec.ofNat 32 n

/-- `inc32(c) = (c + 1) mod 2^32` (R12). -/
def inc32 (c : Word) : Word := c + 1

/-- `add32(c, k) = (c + k) mod 2^32` (R12). -/
def add32 (c : Word) (k : Nat) : Word := c + BitVec.ofNat 32 k

/-- The failure result of `INIT`, −1 in two's complement (R9, 44_host_lifecycle.md R200). -/
def initFailure : Word := 0xFFFFFFFF

/-- The result of `RXGET` when a byte was taken: `0x100 | b` (41_ring_buffer.md R127). -/
def rxgetByte (b : Byte) : Word := 0x100 ||| zextByte b

/-- `CFG[i]` as read out: [23] `rx_fc`, [22] `tx_fc`, [21:0] `linger_us` (10_state.md R40). -/
def Cfg.word (c : Cfg) : Word :=
  (BitVec.ofBool c.rxFc ++ BitVec.ofBool c.txFc ++ c.lingerUs : BitVec 24).setWidth 32

end Sys2Proof.Machine
end

