-- ==== Sys2Proof/Machine/Ring.lean ====
section
/-! DEFINITION. The ring buffer: the access primitives of 00_scope.md R12, the fields of 41_ring_buffer.md R125,
and the four primitives of R121 to R124. -/

namespace Sys2Proof.Machine

/-- The capacity: the number of slots (10_state.md R33; log 14). -/
def Ring.cap (b : Ring) : Nat := b.store.length

/-- `B.avail = cap − B.used` (R125). -/
def Ring.avail (b : Ring) : Nat := b.cap - b.used

/-- `MemRead(B, slot, n)`: `n` consecutive bytes from a slot, no wrap (R12). -/
def Ring.memRead (b : Ring) (slot n : Nat) : List Byte := (b.store.drop slot).take n

/-- `MemWrite(B, slot, 1, v)` (R12). -/
def Ring.memWrite (b : Ring) (slot : Nat) (v : Byte) : Ring := { b with store := b.store.set slot v }

/-- `append(B, b)`: the buffer after, and the count appended, 1 or 0 (R121). -/
def Ring.append (b : Ring) (v : Byte) : Ring × Nat :=
  if b.used = b.cap then (b, 0)
  else ({ b.memWrite ((b.head + b.used) % b.cap) v with used := b.used + 1 }, 1)

/-- `append_n(B, bs)`: `append` until the bytes run out or one is refused (R122). -/
def Ring.appendN (b : Ring) : List Byte → Ring × Nat
  | [] => (b, 0)
  | v :: vs =>
    if (b.append v).2 = 0 then (b, 0)
    else (((b.append v).1.appendN vs).1, ((b.append v).1.appendN vs).2 + 1)

/-- `getview(B, max)`: the slot and the length of the longest contiguous run of the oldest bytes (R123). -/
def Ring.getView (b : Ring) (max : Nat) : Nat × Nat := (b.head, min max (min b.used (b.cap - b.head)))

/-- The bytes of a view: `MemRead(B, slot, count)` (R123). -/
def Ring.viewBytes (b : Ring) (max : Nat) : List Byte := b.memRead (b.getView max).1 (b.getView max).2

/-- `consume(B, n)`; requires `n ≤ B.used` (R124; log 20). -/
def Ring.consume (b : Ring) (n : Nat) : Ring := { b with head := (b.head + n) % b.cap, used := b.used - n }

/-- The slot that holds the `k`-th oldest byte (10_state.md R33). -/
def Ring.slotOf (b : Ring) (k : Nat) : Nat := (b.head + k) % b.cap

/-- The contents, oldest first: `store[(head + k) mod cap]` for `k = 0 … used−1` (10_state.md R33). -/
def Ring.contents (b : Ring) : List Byte := (List.range b.used).map fun k => b.store.getD (b.slotOf k) 0

/-- A ring just allocated: empty, its slots unspecified (free values of draw `draw`; R46, U21; log 11). -/
def Ring.fresh (cap draw : Nat) : Ring where
  store := (List.range cap).map (Config.freeByte draw)
  head := 0
  used := 0

end Sys2Proof.Machine
end

