-- ==== Sys2Proof/Machine/Ops.lean ====
section
/-! DEFINITION. The shared operations every meaning is written in: access to an instance, the outcomes ok, hold
and fault (00_scope.md R14, 60_exceptions.md R232), the checks in the order of R233, taking the next word from
the port, and entry to and return from the Interrupt Handler (R237, R238) and the lock (43_dispatch.md R166). -/

namespace Sys2Proof.Machine

/-! ## Access to the state -/

/-- The state of instance `i`. -/
def State.uart (s : State) (i : InstId) : Uart := s.uarts[i.toNat]'i.isLt

/-- Writes the state of instance `i`. -/
def State.setUart (s : State) (i : InstId) (u : Uart) : State :=
  { s with uarts := s.uarts.set i.toNat u i.isLt }

/-- Writes the driver state of instance `i`. -/
def State.setDriver (s : State) (i : InstId) (d : Driver) : State :=
  s.setUart i { s.uart i with driver := some d }

/-- Writes the interrupt sequencer. -/
def State.setIsr (s : State) (x : Isr) : State := { s with isr := x }

/-- Writes the dispatch sequencer. -/
def State.setPass (s : State) (x : Pass) : State := { s with pass := x }

/-- Counts `n` free values drawn. -/
def State.drew (s : State) (n : Nat) : State := { s with draws := s.draws + n }

/-- Writes the outcome of the word. -/
def State.setReply (s : State) (r : Reply) : State := { s with reply := r }

/-- `i < NUM_INST` (00_scope.md R6). -/
def State.hasInst (s : State) (i : InstId) : Bool := i.toNat < s.params.numInst

/-- `TABLE[i] = bound` (10_state.md R22). -/
def State.bound (s : State) (i : InstId) : Bool := (s.uart i).driver.isSome

/-! ## The three outcomes of a word (00_scope.md R14) -/

/-- Outcome ok, no result. -/
def State.ok (s : State) : Result := .next (s.setReply (.ok none))

/-- Outcome ok, `result v`. -/
def State.okWith (s : State) (v : Word) : Result := .next (s.setReply (.ok (some v)))

/-- Outcome hold: the state is unchanged; only the report says so. -/
def State.hold (s : State) : Result := .next (s.setReply .hold)

/-- `raise`: TAKING A MODEL FAULT (60_exceptions.md R232). Nothing changes but `FAULT`, and that only if it was
0; no handler is entered, no sequencer moves, no result is driven, the block does not stop. -/
def State.raise (s : State) (c : FaultCode) : Result :=
  .next ({ s with fault := if s.fault = 0 then c.code else s.fault }.setReply (.fault c))

/-! ## The checks, in the order of 60_exceptions.md R233 -/

/-- Check (2): a task-context word holds while the handler runs (R241). -/
def State.inTask (s : State) (k : Result) : Result := if s.isr.ph ≠ .idle then s.hold else k

/-- Check (3): `inst ≥ NUM_INST` is `NoInstance` for every word but `INIT`. -/
def State.onInst (s : State) (i : InstId) (k : Result) : Result :=
  if s.hasInst i then k else s.raise .noInstance

/-- Check (4): a word that needs driver state on an unbound instance is `NoInstance`. -/
def State.onBound (s : State) (i : InstId) (k : Driver → Result) : Result :=
  match (s.uart i).driver with
  | some d => k d
  | none => s.raise .noInstance

/-- Check (6): `TXPUT` and `RXGET` hold while the main-buffer lock is taken, `pass.ph ≠ IDLE` (R166, R131). -/
def State.withLock (s : State) (k : Result) : Result := if s.pass.ph ≠ .idle then s.hold else k

/-- The driver state a micro-operation works on. No check of the spec: its instance was bound at entry and
cannot have been unbound since (R245, R203); a state where it is unbound stops the model (log 13). -/
def State.needDriver (s : State) (i : InstId) (k : Driver → Result) : Result :=
  match (s.uart i).driver with
  | some d => k d
  | none => .fault .driverMissing

/-! ## The port -/

/-- Takes the next word of the schedule, with its draw, off the port (log 2, log 5). -/
def State.takeWord (s : State) : Option (Word × State) :=
  match s.port with
  | [] => none
  | p :: rest => some (p.word, { s with port := rest, allocOk := p.allocOk })

/-- What the block does with a word that decodes to nothing: fault `IllegalWord`, whatever the port and
whatever the state (30_encoding.md R86, R233 check (1)). -/
def State.applyIllegal (s : State) : Result := s.raise .illegalWord

/-! ## Interrupt entry and return -/

/-- `I1(i)`, ENTRY to the Interrupt Handler (42_interrupt_handler.md R143, R152; 60_exceptions.md R237): on an
unbound instance nothing is written; else the masked status is snapshotted and the context becomes interrupt
context. Nothing is saved; `IM` and `RIS` do not change. -/
def State.enterHandler (s : State) (i : InstId) : Result :=
  match (s.uart i).driver with
  | none => s.ok
  | some _ => (s.setIsr { ph := .i2, inst := i, snap := (s.uart i).mis, dis := 0, fired := false }).ok

/-- The interrupt sequencer when it has gone idle: the fields other than the phase are free values
(10_state.md R38; U22; log 10). -/
def idleIsr (draw : Nat) : Isr where
  ph := .idle
  inst := Config.freeInst draw
  snap := Config.freeMask draw
  dis := Config.freeMask (draw + 1)
  fired := Config.freeBit draw

/-- `I7B`, RETURN from the Interrupt Handler (R151; 60_exceptions.md R238): the bits of the snapshot are cleared
in `RIS[i]` and interrupt context ends. The masks are not restored. -/
def State.leaveHandler (s : State) (i : InstId) : Result :=
  (((s.setUart i { s.uart i with ris := clearBits (s.uart i).ris s.isr.snap }).setIsr (idleIsr s.draws)).drew 2).ok

/-! ## The lock -/

/-- `D0(i)` past the table test: takes the lock and loads the linger budget, `linger_us × ITERS_PER_US` polls
(43_dispatch.md R162, R166, R168). -/
def State.takeLock (s : State) (i : InstId) (d : Driver) : State :=
  s.setPass { ph := .r1, inst := i, recd := false, lingerLeft := d.cfg.lingerUs.toNat * s.params.itersPerUs }

/-- The dispatch sequencer when no pass is in flight: the fields other than the phase are free values
(10_state.md R39; U22; log 10). -/
def idlePass (draw : Nat) : Pass where
  ph := .idle
  inst := Config.freeInst draw
  recd := Config.freeBit draw
  lingerLeft := Config.freeCount draw

/-- The end of a pass: the lock is free (R166, R174). -/
def State.freeLock (s : State) : State := (s.setPass (idlePass s.draws)).drew 1

end Sys2Proof.Machine
end

