-- ==== Sys2Proof/Machine/Dispatcher.lean ====
section
/-! DEFINITION. The dispatch pass (43_dispatch.md): the micro-operations `D0`, `R1` to `R4` (Deferred RX
Dispatcher), `T1`, `T2` (Deferred TX Dispatcher), `B1` (Bottom Half), and the words `DISPATCH` and `PSTEP`. -/

namespace Sys2Proof.Machine

/-- `D0` (R162): take the request; on an unbound instance drop it, else take the lock. -/
def passD0 (i : InstId) (s : State) : Result :=
  match (s.uart i).driver with
  | none => (s.setUart i { s.uart i with dispReq := false }).ok
  | some d => ((s.setUart i { s.uart i with dispReq := false }).takeLock i d).ok

/-- `R1` (R163): mask the receive interrupts, but only if `AUX` holds bytes. -/
def passR1 (i : InstId) (s : State) : Result :=
  s.needDriver i fun d =>
    if 0 < d.aux.used then
      ((s.setUart i { s.uart i with im := clearBits (s.uart i).im rxInts }).setPass { s.pass with ph := .r1l }).ok
    else (s.setPass { s.pass with ph := .r2 }).ok

/-- One move of `R1L` (R164): the bytes of the view of `n` go from `AUX` to `RXB` and are counted. -/
def Driver.moveAux (d : Driver) (n : Nat) : Driver :=
  { d with
    rxb := (d.rxb.appendN (d.aux.viewBytes n)).1
    aux := d.aux.consume (d.aux.getView n).2
    stats := { d.stats with rxBytes := add32 d.stats.rxBytes (d.aux.getView n).2 } }

/-- `R1L` (R164): one contiguous run, or the end of the loop; `AuxRace` if a receive interrupt is unmasked
while a move is due. -/
def passR1L (i : InstId) (s : State) : Result :=
  s.needDriver i fun d =>
    if min d.rxb.avail d.aux.used = 0 then (s.setPass { s.pass with ph := .r2 }).ok
    else if anyBits (s.uart i).im rxInts then s.raise .auxRace
    else ((s.setDriver i (d.moveAux (min d.rxb.avail d.aux.used))).setPass { s.pass with recd := true }).ok

/-- `R2` (R165): one byte from the receive FIFO to `RXB`, counted, or on to the linger. -/
def passR2 (i : InstId) (s : State) : Result :=
  s.needDriver i fun d =>
    match (s.uart i).rxFifo with
    | b :: q =>
      if 0 < d.rxb.avail then
        ((s.setUart i { s.uart i with
            rxFifo := q
            driver := some { d with
              rxb := (d.rxb.append b).1
              stats := { d.stats with rxBytes := inc32 d.stats.rxBytes } } }).setPass
          { s.pass with recd := true }).ok
      else (s.setPass { s.pass with ph := .r3 }).ok
    | [] => (s.setPass { s.pass with ph := .r3 }).ok

/-- The four conditions under which `R3` polls (R170). -/
def State.lingers (s : State) (d : Driver) : Bool :=
  s.pass.recd && 0 < d.rxb.avail && d.cfg.lingerUs ≠ 0 && 0 < s.pass.lingerLeft

/-- `R3` (R170): one linger poll, or on to `R4`. -/
def passR3 (i : InstId) (s : State) : Result :=
  s.needDriver i fun d =>
    if s.lingers d then
      if 0 < (s.uart i).rxFifo.length then
        ((s.setDriver i { d with stats := { d.stats with rxLingerConts := inc32 d.stats.rxLingerConts } }).setPass
          { s.pass with ph := .r2, lingerLeft := s.pass.lingerLeft - 1 }).ok
      else (s.setPass { s.pass with lingerLeft := s.pass.lingerLeft - 1 }).ok
    else (s.setPass { s.pass with ph := .r4 }).ok

/-- `R4` (R171): clear both receive bits of the status, whatever the FIFO holds. -/
def passR4 (i : InstId) (s : State) : Result :=
  ((s.setUart i { s.uart i with ris := clearBits (s.uart i).ris rxInts }).setPass { s.pass with ph := .t1 }).ok

/-- `T1` (R172): one byte from `TXB` to the transmit FIFO, counted, or on to `T2`. -/
def passT1 (i : InstId) (s : State) : Result :=
  s.needDriver i fun d =>
    if 0 < d.txb.used ∧ (s.uart i).txFifo.length < s.params.hwTxDepth then
      match d.txb.viewBytes 1 with
      | [] => .fault .slotMissing
      | b :: _ =>
        (s.setUart i { s.uart i with
          txFifo := (s.uart i).txFifo ++ [b]
          driver := some { d with
            txb := d.txb.consume 1
            stats := { d.stats with txBytes := inc32 d.stats.txBytes } } }).ok
    else (s.setPass { s.pass with ph := .t2 }).ok

/-- `T2` (R173): clear the transmit bit of the status. -/
def passT2 (i : InstId) (s : State) : Result :=
  ((s.setUart i { s.uart i with ris := clearBits (s.uart i).ris txInts }).setPass { s.pass with ph := .b1 }).ok

/-- `B1` (R174): re-arm, then the pass has ended and the lock is free. -/
def passB1 (i : InstId) (s : State) : Result :=
  s.needDriver i fun d =>
    ((s.setUart i { s.uart i with
        im := setBits (s.uart i).im (rearmMask d.rxEnabled (0 < d.aux.avail) (0 < d.txb.used)) }).freeLock).ok

/-- The micro-operation a phase names (10_state.md R39); at `idle` the next one is the start `D0`. -/
def passStep (ph : PassPh) (i : InstId) (s : State) : Result :=
  match ph with
  | .idle => passD0 i s
  | .r1 => passR1 i s
  | .r1l => passR1L i s
  | .r2 => passR2 i s
  | .r3 => passR3 i s
  | .r4 => passR4 i s
  | .t1 => passT1 i s
  | .t2 => passT2 i s
  | .b1 => passB1 i s

/-- `DISPATCH i` (R160): request a pass; requests do not queue. -/
def execDispatch (i : InstId) (s : State) : Result :=
  s.inTask <| s.onInst i <| s.onBound i fun _ => (s.setUart i { s.uart i with dispReq := true }).ok

/-- `PSTEP i` (R161): start a requested pass, or the next micro-operation of `i`'s pass. -/
def execPstep (i : InstId) (s : State) : Result :=
  s.inTask <| s.onInst i <|
    if s.pass.ph = .idle then
      if (s.uart i).dispReq then passD0 i s else s.hold
    else if s.pass.inst ≠ i then s.hold
    else passStep s.pass.ph i s

end Sys2Proof.Machine
end

