-- ==== Sys2Proof/Machine/Events.lean ====
section
/-! DEFINITION. The peripheral's events (45_peripheral_events.md). They never hold for the phase of a sequencer
and only ever set status bits (R226, R228); while `PEN = 0` they have no effect (R220). -/

namespace Sys2Proof.Machine

/-- `RXARRIVE i, imm8` (R221): accepted, or lost on a full FIFO with `OE` raised; discarded while disabled. -/
def execRxarrive (i : InstId) (imm8 : Byte) (s : State) : Result :=
  s.onInst i <|
    if ¬ (s.uart i).pen then s.ok
    else if (s.uart i).rxFifo.length < s.params.hwRxDepth then
      (s.setUart i { s.uart i with
        rxFifo := (s.uart i).rxFifo ++ [imm8]
        ris := if s.params.rxTrig ≤ (s.uart i).rxFifo.length + 1 then setBits (s.uart i).ris maskRx
               else (s.uart i).ris }).ok
    else
      (s.setUart i { s.uart i with
        rxLost := (s.uart i).rxLost + 1
        ris := setBits (s.uart i).ris maskOe }).ok

/-- `RXTIMEOUT i` (R222). -/
def execRxtimeout (i : InstId) (s : State) : Result :=
  s.onInst i <|
    if ¬ (s.uart i).pen ∨ (s.uart i).rxFifo.length = 0 then s.hold
    else (s.setUart i { s.uart i with ris := setBits (s.uart i).ris maskRt }).ok

/-- `RXLEVEL i` (R223). -/
def execRxlevel (i : InstId) (s : State) : Result :=
  s.onInst i <|
    if ¬ (s.uart i).pen ∨ (s.uart i).rxFifo.length < s.params.rxTrig then s.hold
    else (s.setUart i { s.uart i with ris := setBits (s.uart i).ris maskRx }).ok

/-- `TXSHIFT i` (R224): the oldest byte leaves and is the result. -/
def execTxshift (i : InstId) (s : State) : Result :=
  s.onInst i <|
    match (s.uart i).txFifo with
    | [] => s.hold
    | b :: q =>
      if ¬ (s.uart i).pen then s.hold
      else
        (s.setUart i { s.uart i with
          txFifo := q
          txLine := (s.uart i).txLine ++ [b]
          ris := if q.length ≤ s.params.txTrig then setBits (s.uart i).ris maskTx else (s.uart i).ris }).okWith
            (zextByte b)

/-- `TXLEVEL i` (R225). -/
def execTxlevel (i : InstId) (s : State) : Result :=
  s.onInst i <|
    if ¬ (s.uart i).pen ∨ s.params.txTrig < (s.uart i).txFifo.length then s.hold
    else (s.setUart i { s.uart i with ris := setBits (s.uart i).ris maskTx }).ok

end Sys2Proof.Machine
end

