-- ==== Sys2Proof/Machine/Handler.lean ====
section
/-! DEFINITION. The Interrupt Handler (42_interrupt_handler.md): the micro-operations `I2` to `I7A` (`I1` and
`I7B`, entry and return, are `State.enterHandler` and `State.leaveHandler`), and the words `IRQ` and `ISTEP`.
No micro-operation holds, faults, or reaches `RXB`, `TXB` or `pass` (R140). -/

namespace Sys2Proof.Machine

/-- `I2` (R144): count the interrupt. -/
def handlerI2 (i : InstId) (s : State) : Result :=
  s.needDriver i fun d =>
    ((s.setDriver i { d with stats := { d.stats with ints := inc32 d.stats.ints } }).setIsr
      { s.isr with ph := .i3 }).ok

/-- `I3` (R145): count an overrun; it fires. -/
def handlerI3 (i : InstId) (s : State) : Result :=
  if anyBits s.isr.snap maskOe then
    s.needDriver i fun d =>
      ((s.setDriver i { d with stats := { d.stats with rxOverflows := inc32 d.stats.rxOverflows } }).setIsr
        { s.isr with ph := .i4, fired := true }).ok
  else (s.setIsr { s.isr with ph := .i4 }).ok

/-- `I4` (R146): count a receive interrupt, once for both bits; it fires and the drain loop follows. -/
def handlerI4 (i : InstId) (s : State) : Result :=
  if anyBits s.isr.snap rxInts then
    s.needDriver i fun d =>
      ((s.setDriver i { d with stats := { d.stats with rxInts := inc32 d.stats.rxInts } }).setIsr
        { s.isr with ph := .i4l, fired := true }).ok
  else (s.setIsr { s.isr with ph := .i5 }).ok

/-- `I4L` (R147): move one byte from the receive FIFO to `AUX`, or end the loop; if `AUX` is full then, mark
the receive interrupts for disabling. -/
def handlerI4L (i : InstId) (s : State) : Result :=
  s.needDriver i fun d =>
    match (s.uart i).rxFifo with
    | b :: q =>
      if 0 < d.aux.avail then
        (s.setUart i { s.uart i with rxFifo := q, driver := some { d with aux := (d.aux.append b).1 } }).ok
      else (s.setIsr { s.isr with ph := .i5, dis := setBits s.isr.dis rxInts }).ok
    | [] =>
      if 0 < d.aux.avail then (s.setIsr { s.isr with ph := .i5 }).ok
      else (s.setIsr { s.isr with ph := .i5, dis := setBits s.isr.dis rxInts }).ok

/-- `I5` (R148): count a transmit interrupt; always mark it for disabling; it fires. -/
def handlerI5 (i : InstId) (s : State) : Result :=
  if anyBits s.isr.snap maskTx then
    s.needDriver i fun d =>
      ((s.setDriver i { d with stats := { d.stats with txInts := inc32 d.stats.txInts } }).setIsr
        { s.isr with ph := .i6, dis := setBits s.isr.dis txInts, fired := true }).ok
  else (s.setIsr { s.isr with ph := .i6 }).ok

/-- `I6` (R149): request a dispatch if anything fired. -/
def handlerI6 (i : InstId) (s : State) : Result :=
  if s.isr.fired then
    ((s.setUart i { s.uart i with dispReq := true }).setIsr { s.isr with ph := .i7a }).ok
  else (s.setIsr { s.isr with ph := .i7a }).ok

/-- `I7A` (R150): apply the computed disable mask. -/
def handlerI7A (i : InstId) (s : State) : Result :=
  ((s.setUart i { s.uart i with im := clearBits (s.uart i).im s.isr.dis }).setIsr { s.isr with ph := .i7b }).ok

/-- The micro-operation a phase names (10_state.md R38); at `idle` the next one is the entry `I1`. -/
def handlerStep (ph : IsrPh) (i : InstId) (s : State) : Result :=
  match ph with
  | .idle => s.enterHandler i
  | .i2 => handlerI2 i s
  | .i3 => handlerI3 i s
  | .i4 => handlerI4 i s
  | .i4l => handlerI4L i s
  | .i5 => handlerI5 i s
  | .i6 => handlerI6 i s
  | .i7a => handlerI7A i s
  | .i7b => s.leaveHandler i

/-- `IRQ i` (R141): `I1` whatever `MIS[i]` is; holds while a handler is in flight. -/
def execIrq (i : InstId) (s : State) : Result :=
  s.onInst i <| if s.isr.ph ≠ .idle then s.hold else s.enterHandler i

/-- `ISTEP i` (R142): entry if the line of `i` is asserted, else the next micro-operation of `i`'s handler. -/
def execIstep (i : InstId) (s : State) : Result :=
  s.onInst i <|
    if s.isr.ph = .idle then
      if (s.uart i).requesting then s.enterHandler i else s.hold
    else if s.isr.inst ≠ i then s.hold
    else handlerStep s.isr.ph i s

end Sys2Proof.Machine
end

