-- ==== Sys2Proof/Machine/HwRegs.lean ====
section
/-! DEFINITION. The Hardware Register Interface (40_hw_register_interface.md): nine host commands. Their common
checks are those of R110: context, then instance range; none needs a bound instance or the lock. -/

namespace Sys2Proof.Machine

/-- `BAVAIL i` (R100). -/
def execBavail (i : InstId) (s : State) : Result :=
  s.inTask <| s.onInst i <| s.okWith (zextBit (0 < (s.uart i).rxFifo.length))

/-- `RDBYTE i` (R101); no bit of `RIS` changes (R102). -/
def execRdbyte (i : InstId) (s : State) : Result :=
  s.inTask <| s.onInst i <|
    match (s.uart i).rxFifo with
    | [] => s.raise .rxFifoUnderrun
    | b :: q => (s.setUart i { s.uart i with rxFifo := q }).okWith (zextByte b)

/-- `SAVAIL i` (R103). -/
def execSavail (i : InstId) (s : State) : Result :=
  s.inTask <| s.onInst i <| s.okWith (zextBit ((s.uart i).txFifo.length < s.params.hwTxDepth))

/-- `WRBYTE i, imm8` (R104). -/
def execWrbyte (i : InstId) (imm8 : Byte) (s : State) : Result :=
  s.inTask <| s.onInst i <|
    if (s.uart i).txFifo.length = s.params.hwTxDepth then s.raise .txFifoOverrun
    else (s.setUart i { s.uart i with txFifo := (s.uart i).txFifo ++ [imm8] }).ok

/-- `INTSTAT i, flag` (R105): the masked status if `flag`, else the raw status; nothing is cleared. -/
def execIntstat (i : InstId) (flag : Bool) (s : State) : Result :=
  s.inTask <| s.onInst i <| s.okWith (zextMask (if flag then (s.uart i).mis else (s.uart i).ris))

/-- `INTEN i, mask` (R106). -/
def execInten (i : InstId) (mask : Mask) (s : State) : Result :=
  s.inTask <| s.onInst i <| (s.setUart i { s.uart i with im := setBits (s.uart i).im mask }).ok

/-- `INTDIS i, mask` (R107). -/
def execIntdis (i : InstId) (mask : Mask) (s : State) : Result :=
  s.inTask <| s.onInst i <| (s.setUart i { s.uart i with im := clearBits (s.uart i).im mask }).ok

/-- `INTCLR i, mask` (R108). -/
def execIntclr (i : InstId) (mask : Mask) (s : State) : Result :=
  s.inTask <| s.onInst i <| (s.setUart i { s.uart i with ris := clearBits (s.uart i).ris mask }).ok

/-- `BUSY i` (R109). -/
def execBusy (i : InstId) (s : State) : Result :=
  s.inTask <| s.onInst i <| s.okWith (zextBit (0 < (s.uart i).txFifo.length))

end Sys2Proof.Machine
end

