-- ==== Sys2Proof/Machine/Csr.lean ====
section
/-! DEFINITION. The CSR space (10_state.md R40): 23 numbers, each a view of the state. Hardware registers can be
read at any time, driver registers only while the instance is bound. -/

namespace Sys2Proof.Machine

/-- The hardware registers (R40, kind "hardware"). -/
inductive HwCsr where
  | ris | im | mis | ctl | rxflvl | txflvl | passph | lingerleft | fault
deriving DecidableEq, Repr

/-- The driver registers (R40, kind "driver"). -/
inductive DrvCsr where
  | cfg | auxused | auxavail | rxbused | rxbavail | txbused | txbavail
  | stInts | stRxints | stTxints | stRxbytes | stTxbytes | stRxovf | stLinger
deriving DecidableEq, Repr

/-- A numbered register (R40). -/
inductive Csr where
  | hw (r : HwCsr)
  | drv (r : DrvCsr)
deriving DecidableEq, Repr

/-- The register of a number; `none` for a reserved number (R40). -/
def csrOfNumber (n : Byte) : Option Csr :=
  match n.toNat with
  | 0x00 => some (.hw .ris)
  | 0x01 => some (.hw .im)
  | 0x02 => some (.hw .mis)
  | 0x03 => some (.hw .ctl)
  | 0x04 => some (.drv .cfg)
  | 0x05 => some (.drv .auxused)
  | 0x06 => some (.drv .auxavail)
  | 0x07 => some (.drv .rxbused)
  | 0x08 => some (.drv .rxbavail)
  | 0x09 => some (.drv .txbused)
  | 0x0A => some (.drv .txbavail)
  | 0x0B => some (.hw .rxflvl)
  | 0x0C => some (.hw .txflvl)
  | 0x0D => some (.hw .passph)
  | 0x0E => some (.hw .lingerleft)
  | 0x0F => some (.hw .fault)
  | 0x10 => some (.drv .stInts)
  | 0x11 => some (.drv .stRxints)
  | 0x12 => some (.drv .stTxints)
  | 0x13 => some (.drv .stRxbytes)
  | 0x14 => some (.drv .stTxbytes)
  | 0x15 => some (.drv .stRxovf)
  | 0x16 => some (.drv .stLinger)
  | _ => none

/-- The code of a phase of the pass, 0 to 8 (R39). -/
def PassPh.code : PassPh → Nat
  | .idle => 0
  | .r1 => 1
  | .r1l => 2
  | .r2 => 3
  | .r3 => 4
  | .r4 => 5
  | .t1 => 6
  | .t2 => 7
  | .b1 => 8

/-- Whether a pass on instance `i` is in flight. -/
def State.passOn (s : State) (i : InstId) : Bool := s.pass.ph ≠ .idle && s.pass.inst = i

/-- `CTL`: [0] `PEN`, [1] `RTR`, [2] `rx_enabled` if bound, [3] bound, [4] `disp_req` (R40). -/
def Uart.ctl (u : Uart) : BitVec 5 :=
  BitVec.ofBool u.dispReq ++ BitVec.ofBool u.driver.isSome ++
    BitVec.ofBool (u.driver.elim false Driver.rxEnabled) ++ BitVec.ofBool u.rtr ++ BitVec.ofBool u.pen

/-- The value of a hardware register of instance `i`, zero-extended (R40). -/
def HwCsr.value (r : HwCsr) (s : State) (i : InstId) : Word :=
  match r with
  | .ris => zextMask (s.uart i).ris
  | .im => zextMask (s.uart i).im
  | .mis => zextMask (s.uart i).mis
  | .ctl => (s.uart i).ctl.setWidth 32
  | .rxflvl => countWord (s.uart i).rxFifo.length
  | .txflvl => countWord (s.uart i).txFifo.length
  | .passph => countWord (if s.passOn i then s.pass.ph.code else 0)
  | .lingerleft => countWord (if s.passOn i then s.pass.lingerLeft else 0)
  | .fault => s.fault

/-- The value of a driver register, zero-extended (R40). -/
def DrvCsr.value (r : DrvCsr) (d : Driver) : Word :=
  match r with
  | .cfg => d.cfg.word
  | .auxused => countWord d.aux.used
  | .auxavail => countWord d.aux.avail
  | .rxbused => countWord d.rxb.used
  | .rxbavail => countWord d.rxb.avail
  | .txbused => countWord d.txb.used
  | .txbavail => countWord d.txb.avail
  | .stInts => d.stats.ints
  | .stRxints => d.stats.rxInts
  | .stTxints => d.stats.txInts
  | .stRxbytes => d.stats.rxBytes
  | .stTxbytes => d.stats.txBytes
  | .stRxovf => d.stats.rxOverflows
  | .stLinger => d.stats.rxLingerConts

end Sys2Proof.Machine
end

