-- ==== Sys2Proof/Machine/Lifecycle.lean ====
section
/-! DEFINITION. The host commands of 44_host_lifecycle.md: `INIT`, `DEINIT`, `SETRXEN` (with the Flow-Control
Toggle), `FLUSH`, `RDCSR`. None takes the main-buffer lock. -/

namespace Sys2Proof.Machine

/-- All seven counters 0 (R200). -/
def Stats.zero : Stats where
  ints := 0
  rxInts := 0
  txInts := 0
  rxBytes := 0
  txBytes := 0
  rxOverflows := 0
  rxLingerConts := 0

/-- The driver state `INIT` allocates (R200): empty buffers with unspecified slots (log 11), zero counters,
reception disabled. `draw` is the first of three draws, one for each buffer. -/
def Driver.fresh (p : Params) (c : Cfg) (draw : Nat) : Driver where
  cfg := c
  rxEnabled := false
  aux := Ring.fresh p.auxCap draw
  rxb := Ring.fresh p.rxCap (draw + 1)
  txb := Ring.fresh p.txCap (draw + 2)
  stats := Stats.zero

/-- `FC_SUPPORTED[i]` (00_scope.md R6). -/
def State.fcSupported (s : State) (i : InstId) : Bool := s.params.fcSupported[i.toNat]'i.isLt

/-- `INIT i, cfg` (R200, R201, R202). The draw `alloc_ok` is the one that came with the word (log 5). -/
def execInit (i : InstId) (rxFc txFc : Bool) (lingerUs : BitVec 22) (s : State) : Result :=
  s.inTask <|
    if ¬ s.hasInst i then s.okWith initFailure
    else if s.bound i then s.raise .doubleInit
    else if (rxFc || txFc) && !s.fcSupported i then s.okWith initFailure
    else if ¬ s.allocOk then s.okWith initFailure
    else
      ((s.setUart i { s.uart i with
          driver := some (Driver.fresh s.params { rxFc := rxFc, txFc := txFc, lingerUs := lingerUs } s.draws)
          pen := true
          im := 0 }).drew 3).okWith 0

/-- `DEINIT i` (R203, R204): one atomic step; the driver state ceases to exist. -/
def execDeinit (i : InstId) (s : State) : Result :=
  s.inTask <| s.onInst i <| s.onBound i fun _ =>
    if s.passOn i then s.raise .deinitDuringPass
    else (s.setUart i { s.uart i with pen := false, im := 0, driver := none }).ok

/-- `SETRXEN i, flag` (R205, R206): the receive-enabled flag and the ready-to-receive bit, nothing else. -/
def execSetrxen (i : InstId) (flag : Bool) (s : State) : Result :=
  s.inTask <| s.onInst i <| s.onBound i fun d =>
    (s.setUart i { s.uart i with
      driver := some { d with rxEnabled := flag }
      rtr := if flag then (if d.cfg.rxFc then true else (s.uart i).rtr) else false }).ok

/-- `FLUSH i` (R207): the busy-wait is a hold while the transmit FIFO holds bytes. -/
def execFlush (i : InstId) (s : State) : Result :=
  s.inTask <| s.onInst i <| s.onBound i fun _ =>
    if 0 < (s.uart i).txFifo.length then s.hold else s.ok

/-- `RDCSR i, csr` (R208): an unlisted number is `IllegalWord` before any other check (log 22). -/
def execRdcsr (i : InstId) (csr : Byte) (s : State) : Result :=
  match csrOfNumber csr with
  | none => s.applyIllegal
  | some (.hw r) => s.inTask <| s.onInst i <| s.okWith (r.value s i)
  | some (.drv r) => s.inTask <| s.onInst i <| s.onBound i fun d => s.okWith (r.value d)

end Sys2Proof.Machine
end

