-- ==== Sys2Proof/Machine/MainBuffers.lean ====
section
/-! DEFINITION. The host's access to the main buffers (41_ring_buffer.md section 4): `TXPUT` and `RXGET`. Each
takes and releases the lock within the word (R131); neither requests a dispatch. -/

namespace Sys2Proof.Machine

/-- `TXPUT i, imm8` (R126): the result is the count appended, 1 or 0. -/
def execTxput (i : InstId) (imm8 : Byte) (s : State) : Result :=
  s.inTask <| s.onInst i <| s.onBound i fun d => s.withLock <|
    (s.setDriver i { d with txb := (d.txb.append imm8).1 }).okWith (countWord (d.txb.append imm8).2)

/-- `RXGET i` (R127): `0x100 | b` and the byte is consumed, or 0 if the view is empty. -/
def execRxget (i : InstId) (s : State) : Result :=
  s.inTask <| s.onInst i <| s.onBound i fun d => s.withLock <|
    match d.rxb.viewBytes 1 with
    | [] => s.okWith 0
    | b :: _ => (s.setDriver i { d with rxb := d.rxb.consume 1 }).okWith (rxgetByte b)

end Sys2Proof.Machine
end

