-- ==== Sys2Proof/Machine/Dispatch.lean ====
section
/-! DEFINITION. One arm per operation, each a direct call of its meaning. -/

namespace Sys2Proof.Machine

def exec (i : Instr) (s : State) : Host.Outcome State Fault Refusal :=
  match i with
  | .bavail i1 => Sys2Proof.Machine.execBavail i1 s
  | .rdbyte i1 => Sys2Proof.Machine.execRdbyte i1 s
  | .savail i1 => Sys2Proof.Machine.execSavail i1 s
  | .wrbyte i1 b => Sys2Proof.Machine.execWrbyte i1 b s
  | .intstat i1 f => Sys2Proof.Machine.execIntstat i1 f s
  | .inten i1 m => Sys2Proof.Machine.execInten i1 m s
  | .intdis i1 m => Sys2Proof.Machine.execIntdis i1 m s
  | .intclr i1 m => Sys2Proof.Machine.execIntclr i1 m s
  | .busy i1 => Sys2Proof.Machine.execBusy i1 s
  | .txput i1 b => Sys2Proof.Machine.execTxput i1 b s
  | .rxget i1 => Sys2Proof.Machine.execRxget i1 s
  | .irq i1 => Sys2Proof.Machine.execIrq i1 s
  | .istep i1 => Sys2Proof.Machine.execIstep i1 s
  | .dispatch i1 => Sys2Proof.Machine.execDispatch i1 s
  | .pstep i1 => Sys2Proof.Machine.execPstep i1 s
  | .init i1 rxFc txFc l => Sys2Proof.Machine.execInit i1 rxFc txFc l s
  | .deinit i1 => Sys2Proof.Machine.execDeinit i1 s
  | .setrxen i1 f => Sys2Proof.Machine.execSetrxen i1 f s
  | .flush i1 => Sys2Proof.Machine.execFlush i1 s
  | .rdcsr i1 n => Sys2Proof.Machine.execRdcsr i1 n s
  | .rxarrive i1 b => Sys2Proof.Machine.execRxarrive i1 b s
  | .rxtimeout i1 => Sys2Proof.Machine.execRxtimeout i1 s
  | .rxlevel i1 => Sys2Proof.Machine.execRxlevel i1 s
  | .txshift i1 => Sys2Proof.Machine.execTxshift i1 s
  | .txlevel i1 => Sys2Proof.Machine.execTxlevel i1 s

end Sys2Proof.Machine
end

