-- ==== Sys2Proof/Machine/Step.lean ====
section
/-! DEFINITION. One step of the block: the next word of the schedule is taken off the port and applied
(00_scope.md R14; 20_memory.md R68). -/

namespace Sys2Proof.Machine

/-- One step. With nothing on the port the block runs nothing (70_reset_and_hazards.md R260; log 4). -/
def step (s : State) : Host.Outcome State Fault Refusal :=
  match s.takeWord with
  | none => .next s
  | some (w, t) =>
    match decode w with
    | .ok i => exec i t
    | .error _ => t.applyIllegal

/-- An agent presents the word `w` of `nbits` bits next, with the draw already in the state (log 2, log 5). -/
def State.withFetchWord (s : State) (nbits w : Nat) : State :=
  { s with port := { word := BitVec.ofNat 32 (w % 2 ^ nbits), allocOk := s.allocOk } :: s.port }

end Sys2Proof.Machine
end

