-- ==== Sys2Proof/Machine/Pseudo.lean ====
section
/-! DEFINITION. Runs of operations, and the pseudo-operations of 30_encoding.md R89. None is an operation word;
they say once what "run the handler" and "run a pass" mean, with nothing interleaved. -/

namespace Sys2Proof.Machine

/-- Applies operations in order; stops at the first that answers no next state. -/
def execAll (is : List Instr) (s : State) : Result :=
  match is with
  | [] => .next s
  | i :: rest =>
    match exec i s with
    | .next t => execAll rest t
    | .fault f => .fault f
    | .refused r => .refused r

/-- `ISTEP i` once, then again while `isr.ph ≠ IDLE`, at most `n` words. -/
def isrRun (i : InstId) (n : Nat) (s : State) : Result :=
  match n with
  | 0 => .next s
  | n + 1 =>
    match exec (.istep i) s with
    | .next t => if t.isr.ph = .idle then .next t else isrRun i n t
    | .fault f => .fault f
    | .refused r => .refused r

/-- `PSTEP i` once, then again while `pass.ph ≠ IDLE`, at most `n` words. -/
def passRun (i : InstId) (n : Nat) (s : State) : Result :=
  match n with
  | 0 => .next s
  | n + 1 =>
    match exec (.pstep i) s with
    | .next t => if t.pass.ph = .idle then .next t else passRun i n t
    | .fault f => .fault f
    | .refused r => .refused r

/-- The most `ISTEP`s one handler invocation takes: `9 + AUX_CAP` (42_interrupt_handler.md R153). -/
def State.isrBound (s : State) : Nat := 9 + s.params.auxCap

/-- The linger budget of instance `i` in polls, `L = linger_us × ITERS_PER_US` (43_dispatch.md R168). -/
def State.lingerBudget (s : State) (i : InstId) : Nat :=
  match (s.uart i).driver with
  | none => 0
  | some d => d.cfg.lingerUs.toNat * s.params.itersPerUs

/-- The most `PSTEP`s one pass takes: `RX_CAP + TX_CAP + 2L + 9` (43_dispatch.md R176). -/
def State.passBound (s : State) (i : InstId) : Nat :=
  s.params.rxCap + s.params.txCap + 2 * s.lingerBudget i + 9

/-- `ISR.RUN i` (R89). -/
def runIsr (i : InstId) (s : State) : Result := isrRun i s.isrBound s

/-- `PASS.RUN i` (R89). -/
def runPass (i : InstId) (s : State) : Result := passRun i (s.passBound i) s

/-- `KICK i`: `DISPATCH i` then `PASS.RUN i` (R89). -/
def runKick (i : InstId) (s : State) : Result :=
  match exec (.dispatch i) s with
  | .next t => runPass i t
  | .fault f => .fault f
  | .refused r => .refused r

/-- `BOOT i`: `INIT i, 0` then `SETRXEN i, 1` then `KICK i` (R89; the boot sequence of 70 R262). -/
def runBoot (i : InstId) (s : State) : Result :=
  match execAll [.init i false false 0, .setrxen i true] s with
  | .next t => runKick i t
  | .fault f => .fault f
  | .refused r => .refused r

/-- `STATS i`: the seven words that read the statistics (R89). -/
def statsWords (i : InstId) : List Instr :=
  [.rdcsr i 0x10, .rdcsr i 0x11, .rdcsr i 0x12, .rdcsr i 0x13, .rdcsr i 0x14, .rdcsr i 0x15, .rdcsr i 0x16]

/-- `RXBURST i, b0, b1, …` (R89). -/
def rxBurst (i : InstId) (bs : List Byte) : List Instr := bs.map (.rxarrive i)

end Sys2Proof.Machine
end

