-- ==== Sys2Proof/Safety.lean ====
section
/-! DEFINITION. What claims about AUXHS are stated in: the invariant of the reachable states (10_state.md R44
and what the rules say of the sequencers), frames, the outcomes of a word as propositions, and the measures that
bound the handler and a pass. -/

namespace Sys2Proof.Machine

/-! ## The invariant -/

/-- A ring buffer of capacity `cap` is well formed (10_state.md R33, R44). -/
abbrev Ring.Wf (cap : Nat) (b : Ring) : Prop := b.store.length = cap ∧ b.head < cap ∧ b.used ≤ cap

/-- The driver state of an instance (R44; 44_host_lifecycle.md R201: flow control is configured only where it is
supported). -/
structure Driver.Wf (p : Params) (fc : Bool) (d : Driver) : Prop where
  aux : d.aux.Wf p.auxCap
  rxb : d.rxb.Wf p.rxCap
  txb : d.txb.Wf p.txCap
  flow : (d.cfg.rxFc || d.cfg.txFc) = true → fc = true

/-- The state of an instance (R44; R29 and R250: the peripheral is enabled exactly while the instance is bound;
R205 with R201: the ready line is asserted only where flow control is supported). -/
structure Uart.Wf (p : Params) (fc : Bool) (u : Uart) : Prop where
  rxFifo : u.rxFifo.length ≤ p.hwRxDepth
  txFifo : u.txFifo.length ≤ p.hwTxDepth
  pen : u.pen = u.driver.isSome
  rtr : u.rtr = true → fc = true
  driver : ∀ d, u.driver = some d → d.Wf p fc

/-- What `isr.fired` holds at a phase, from the snapshot: whether a step already run tested a bit that is set
(42_interrupt_handler.md R145, R146, R148). -/
def firedBy (ph : IsrPh) (snap : Mask) : Bool :=
  match ph with
  | .idle | .i2 | .i3 => false
  | .i4 => anyBits snap maskOe
  | .i4l | .i5 => anyBits snap (maskOe ||| rxInts)
  | .i6 | .i7a | .i7b => anyBits snap allInts

/-- The invariant of every reachable state. -/
structure State.Inv (s : State) : Prop where
  /-- The configuration meets the constraints of 00_scope.md R6. -/
  params : s.params.Wf
  /-- Every instance is well formed (R44). -/
  uarts : ∀ i, (s.uart i).Wf s.params (s.fcSupported i)
  /-- An instance that does not exist is as power-on left it. -/
  absent : ∀ i, s.hasInst i = false → s.uart i = Uart.powerOn
  /-- A handler in flight serves an instance that exists and is bound (60_exceptions.md R245). -/
  isrBound : s.isr.ph ≠ .idle → s.hasInst s.isr.inst = true ∧ s.bound s.isr.inst = true
  /-- The drain loop is visited only for a receive interrupt (42_interrupt_handler.md R146). -/
  isrDrain : s.isr.ph = .i4l → anyBits s.isr.snap rxInts = true
  /-- `fired` says whether a step of 3 to 5 that has run tested a set bit (92 D12). -/
  isrFired : s.isr.ph ≠ .idle → s.isr.fired = firedBy s.isr.ph s.isr.snap
  /-- The handler never marks the overrun source for disabling (60_exceptions.md R234). -/
  isrDis : s.isr.ph ≠ .idle → anyBits s.isr.dis maskOe = false
  /-- A pass in flight is on an instance that exists and is bound (43_dispatch.md R162, 44 R204). -/
  passBound : s.pass.ph ≠ .idle → s.hasInst s.pass.inst = true ∧ s.bound s.pass.inst = true
  /-- The budget left is within the configured budget (43_dispatch.md R168). -/
  passLinger : s.pass.ph ≠ .idle → s.pass.lingerLeft ≤ s.lingerBudget s.pass.inst
  /-- At the start of a pass nothing has been received (43_dispatch.md R169). -/
  passRecd : s.pass.ph = .r1 → s.pass.recd = false
  /-- `FAULT` is 0 or one of the seven codes (60_exceptions.md R231). -/
  fault : s.fault.toNat ≤ 7

/-! ## Outcomes and frames -/

/-- `i` at `s` has outcome hold: nothing changes (00_scope.md R14). -/
def Holds (i : Instr) (s : State) : Prop := exec i s = .next { s with reply := .hold }

/-- `i` at `s` has outcome fault with code `c`: nothing changes but `FAULT`, if it was 0 (60_exceptions.md R232). -/
def Faults (i : Instr) (s : State) (c : FaultCode) : Prop :=
  exec i s = .next { s with fault := if s.fault = 0 then c.code else s.fault, reply := .fault c }

/-- `i` at `s` has outcome ok, drives the result `v`, and changes nothing. -/
def Reads (i : Instr) (s : State) (v : Word) : Prop := exec i s = .next { s with reply := .ok (some v) }

/-- Everything but the instances, the sequencers and the count of free values is unchanged, and so is every
instance but `i`. -/
structure FrameShared (i : InstId) (s t : State) : Prop where
  others : ∀ j, j ≠ i → t.uart j = s.uart j
  fault : t.fault = s.fault
  params : t.params = s.params
  port : t.port = s.port
  allocOk : t.allocOk = s.allocOk

/-- `i` at `s` has outcome ok, and all it does is make instance `k`'s state `u`, the interrupt sequencer `x` and
the dispatch sequencer `y`; it drives `v` if that is `some`. `draws` may advance. -/
def Does (i : Instr) (s : State) (k : InstId) (u : Uart) (x : Isr) (y : Pass) (v : Option Word) : Prop :=
  ∃ t, exec i s = .next t ∧ t.reply = .ok v ∧ t.uart k = u ∧ t.isr = x ∧ t.pass = y ∧ FrameShared k s t

/-- The checks common to the task-context words pass: task context, and the instance exists (60 R233). -/
def TaskReady (s : State) (i : InstId) : Prop := s.isr.ph = .idle ∧ i.toNat < s.params.numInst

/-- The word of `x` is `(opc << 26) | (inst << 24) | operand` (30_encoding.md R85). -/
def EncodesAs (x : Instr) (opc : BitVec 6) (operand : BitVec 24) : Prop := encode x = opc ++ x.inst ++ operand

/-- The checks common to every task-context word but `INIT`, in their order (40 R110, 60 R233): it holds while the
handler runs; then an instance that does not exist is `NoInstance`. -/
def TaskChecks (x : Instr) (s : State) : Prop :=
  (s.isr.ph ≠ .idle → Holds x s) ∧
    (s.isr.ph = .idle → s.params.numInst ≤ x.inst.toNat → Faults x s .noInstance)

/-- The checks of a word that needs driver state (60 R233): those of `TaskChecks`, then an unbound instance is
`NoInstance`. -/
def BoundChecks (x : Instr) (s : State) : Prop :=
  TaskChecks x s ∧ (TaskReady s x.inst → (s.uart x.inst).driver = none → Faults x s .noInstance)

/-- The one check common to the words of the peripheral and the interrupt sequencer (60 R233, 30 R87). -/
def RangeCheck (x : Instr) (s : State) : Prop := s.params.numInst ≤ x.inst.toNat → Faults x s .noInstance

/-- The handler of the bound instance `i` is about to run the micro-operation `ph`. -/
def HandlerAt (s : State) (ph : IsrPh) (i : InstId) (d : Driver) : Prop :=
  s.isr.ph = ph ∧ s.isr.inst = i ∧ i.toNat < s.params.numInst ∧ (s.uart i).driver = some d

/-- The pass on the bound instance `i` is about to run the micro-operation `ph`, in task context. -/
def PassAt (s : State) (ph : PassPh) (i : InstId) (d : Driver) : Prop :=
  s.isr.ph = .idle ∧ s.pass.ph = ph ∧ s.pass.inst = i ∧ i.toNat < s.params.numInst ∧ (s.uart i).driver = some d

/-! ## Legal words (30_encoding.md R84, R86) -/

/-- `match` and `mask` of the 25 rows of spec/opcode_table.json. -/
def opcodeRows : List (Word × Word) :=
  [(0x04000000, 0xFCFFFFFF), (0x08000000, 0xFCFFFFFF), (0x0C000000, 0xFCFFFFFF), (0x10000000, 0xFCFFFF00),
   (0x14000000, 0xFCFFFFFE), (0x18000000, 0xFCFFFFF0), (0x1C000000, 0xFCFFFFF0), (0x20000000, 0xFCFFFFF0),
   (0x24000000, 0xFCFFFFFF), (0x40000000, 0xFCFFFF00), (0x44000000, 0xFCFFFFFF), (0x60000000, 0xFCFFFFFF),
   (0x64000000, 0xFCFFFFFF), (0x68000000, 0xFCFFFFFF), (0x6C000000, 0xFCFFFFFF), (0x80000000, 0xFC000000),
   (0x84000000, 0xFCFFFFFF), (0x88000000, 0xFCFFFFFE), (0x8C000000, 0xFCFFFFFF), (0x90000000, 0xFCFFFF00),
   (0xC0000000, 0xFCFFFF00), (0xC4000000, 0xFCFFFFFF), (0xC8000000, 0xFCFFFFFF), (0xCC000000, 0xFCFFFFFF),
   (0xD0000000, 0xFCFFFFFF)]

/-- A word matches a row of the opcode table and, if it is `RDCSR`, names a listed register (R86). -/
def LegalWord (w : Word) : Prop :=
  ∃ r ∈ opcodeRows, w &&& r.2 = r.1 ∧ (r.1 = 0x90000000 → (w &&& 0xFF).toNat ≤ 0x16)

/-! ## The received stream (10_state.md R45, 20_memory.md R70) -/

/-- The bytes of the received stream an instance holds, oldest first if no pass has overtaken the handler:
`RXB`, then `AUX`, then `RXFIFO`. -/
def Uart.received (u : Uart) : List Byte :=
  match u.driver with
  | none => u.rxFifo
  | some d => d.rxb.contents ++ d.aux.contents ++ u.rxFifo

/-- The drain of the pass in flight, if it is at `R2` or `R3`, can overtake nothing: the `AUX` of its instance is
empty, or its `RXB` is full so that nothing more moves (20_memory.md R70). -/
def State.drainOrdered (s : State) : Prop :=
  s.pass.ph = .r2 ∨ s.pass.ph = .r3 → ∀ d, (s.uart s.pass.inst).driver = some d → d.aux.used = 0 ∨ d.rxb.avail = 0

/-! ## The measure of a pass (43_dispatch.md R176) -/

/-- The most micro-operations a pass in flight has left: room in `RXB`, bytes in `TXB`, twice the linger polls
left, and a constant for the phase. -/
def State.passMeasure (s : State) : Nat :=
  match (s.uart s.pass.inst).driver with
  | none => 0
  | some d =>
    match s.pass.ph with
    | .idle => 0
    | .r1 => d.rxb.avail + d.txb.used + 2 * s.pass.lingerLeft + 8
    | .r1l => d.rxb.avail + d.txb.used + 2 * s.pass.lingerLeft + 7
    | .r2 => d.rxb.avail + d.txb.used + 2 * s.pass.lingerLeft + 6
    | .r3 => d.rxb.avail + d.txb.used + 2 * s.pass.lingerLeft + 5
    | .r4 => d.txb.used + 4
    | .t1 => d.txb.used + 3
    | .t2 => 2
    | .b1 => 1

/-! ## Sequences of ring operations (41_ring_buffer.md R132) -/

/-- One use of the ring primitives that respects the requirement of R124. -/
inductive RingOp where
  /-- `append` of one byte. -/
  | put (v : Byte)
  /-- `append_n` of several bytes. -/
  | putAll (vs : List Byte)
  /-- `getview` of at most `max` bytes, then `consume` of `n` of the bytes seen (all of them if `n` is more). -/
  | take (max n : Nat)
deriving DecidableEq, Repr

/-- Runs ring operations: the buffer after, the bytes appended (those the buffer took), and the bytes returned
through views and then consumed. -/
def runRing : List RingOp → Ring → Ring × List Byte × List Byte
  | [], b => (b, [], [])
  | .put v :: ops, b =>
    let o := runRing ops (b.append v).1
    (o.1, (if (b.append v).2 = 1 then [v] else []) ++ o.2.1, o.2.2)
  | .putAll vs :: ops, b =>
    let o := runRing ops (b.appendN vs).1
    (o.1, vs.take (b.appendN vs).2 ++ o.2.1, o.2.2)
  | .take m n :: ops, b =>
    let c := min n (b.getView m).2
    let o := runRing ops (b.consume c)
    (o.1, o.2.1, (b.viewBytes m).take c ++ o.2.2)

end Sys2Proof.Machine
end

