-- ==== Sys2Proof/Certificates/Slice0/Obligations.lean ====
section
/-! DEFINITION. The statements about AUXHS. Each docstring names the rules of spec/ the statement formalises.
Shapes used throughout are defined in Sys2Proof/Safety.lean: `Holds`, `Faults`, `Reads`, `Does` (the outcomes, with
their frames), `TaskChecks`, `BoundChecks`, `RangeCheck` (the checks before an effect), `HandlerAt`, `PassAt`. -/

open Sys2Proof Sys2Proof.Machine

/-! ## Encoding (30_encoding.md) -/

/-- Decoding the word of a legal operation gives the operation back, every operand at every value (R85). -/
def Obligations.DecodeOfEncode : Prop :=
  ∀ x : Instr, x.wf = true → decode (encode x) = .ok x

/-- A word that decodes is the word of the operation it decodes to, and that operation is legal (R85, R86). -/
def Obligations.EncodeOfDecode : Prop :=
  ∀ (w : Word) (x : Instr), decode w = .ok x → x.wf = true ∧ encode x = w

/-- A word decodes exactly when it matches a row of the opcode table (and, for `RDCSR`, names a listed register);
applying any other word is `IllegalWord`, in every state and whatever agent presents it (R84, R86, R233 (1)). How
the word comes off the port, with its draw, is the model's choice (logs 2, 3, 5), as in `StepRunsDecodedWord`. -/
def Obligations.IllegalWordsFault : Prop :=
  (∀ w : Word, (∃ x, decode w = .ok x) ↔ LegalWord w) ∧
    ∀ (s : State) (p : PortWord) (rest : List PortWord), s.port = p :: rest → ¬ LegalWord p.word →
      step s = .next { s with
        port := rest
        allocOk := p.allocOk
        fault := if s.fault = 0 then 1 else s.fault
        reply := .fault .illegalWord }

/-- The four worked examples of R85 decode to the operations it names. -/
def Obligations.WorkedExamplesDecode : Prop :=
  decode 0xC0000041 = .ok (.rxarrive 0 0x41) ∧ decode 0x89000001 = .ok (.setrxen 1 true) ∧
    decode 0x80800003 = .ok (.init 0 true false 3) ∧ decode 0x90000013 = .ok (.rdcsr 0 0x13)

/-- A step with a legal word first on the port takes the word off it, with the draw beside it, and is that operation
applied. The model's choice, not a rule's: R14 and R43 make the word and the draw arguments of the step and fix no
schedule; the model holds the schedule as a list in State (DEDUCED, log 2) whose first entry leaves the port even if the
word holds (DEDUCED, log 3), with the draw beside each word (DESIGN CHOICE, log 5). -/
def Obligations.StepRunsDecodedWord : Prop :=
  ∀ (s : State) (p : PortWord) (rest : List PortWord) (x : Instr), s.port = p :: rest → decode p.word = .ok x →
    step s = exec x { s with port := rest, allocOk := p.allocOk }

/-- With nothing on the port a step changes nothing. The model's reading (DEDUCED, log 4) of R260 "the block runs
nothing until an agent applies a word". -/
def Obligations.EmptyPortStepIdles : Prop :=
  ∀ s : State, s.port = [] → step s = .next s

/-- A word stored as bytes has its least significant byte first, and reads back as itself (R62). -/
def Obligations.WordBytesLittleEndian : Prop :=
  ∀ w : Word, wordOfBytes (wordToBytes w) = some w ∧ (wordToBytes w)[0]? = some (w.extractLsb' 0 8) ∧
    (wordToBytes w)[3]? = some (w.extractLsb' 24 8) ∧ (wordToBytes w).length = 4

/-! ## Reset and the invariant (10_state.md, 70_reset_and_hazards.md) -/

/-- The power-on state of R260, in every configuration: the values, and that no word but `INIT`, the hardware
register words, `RDCSR` of a hardware register, `IRQ` and the discarded `RXARRIVE` does more than hold or fault. -/
def Obligations.PowerOnState : Prop :=
  ∀ p : Params,
    (State.powerOn p).fault = 0 ∧ (State.powerOn p).isr.ph = .idle ∧ (State.powerOn p).pass.ph = .idle ∧
      (∀ i, ((State.powerOn p).uart i).driver = none ∧ ((State.powerOn p).uart i).rxFifo = [] ∧
        ((State.powerOn p).uart i).txFifo = [] ∧ ((State.powerOn p).uart i).ris = 0 ∧
        ((State.powerOn p).uart i).im = 0 ∧ ((State.powerOn p).uart i).pen = false ∧
        ((State.powerOn p).uart i).rtr = false ∧ ((State.powerOn p).uart i).dispReq = false ∧
        ((State.powerOn p).uart i).txLine = [] ∧ ((State.powerOn p).uart i).rxLost = 0) ∧
      ∀ (i : InstId) (x : Instr) (b : Byte) (f : Bool), i.toNat < p.numInst →
        (x = .txput i b ∨ x = .rxget i ∨ x = .dispatch i ∨ x = .deinit i ∨ x = .setrxen i f ∨ x = .flush i →
          Faults x (State.powerOn p) .noInstance) ∧
        (x = .istep i ∨ x = .pstep i ∨ x = .rxtimeout i ∨ x = .rxlevel i ∨ x = .txshift i ∨ x = .txlevel i →
          Holds x (State.powerOn p)) ∧
        (∀ n : Byte, n.toNat = 4 ∨ (5 ≤ n.toNat ∧ n.toNat ≤ 0x0A) ∨ (0x10 ≤ n.toNat ∧ n.toNat ≤ 0x16) →
          Faults (.rdcsr i n) (State.powerOn p) .noInstance) ∧
        (x = .irq i ∨ x = .rxarrive i b →
          exec x (State.powerOn p) = .next { State.powerOn p with reply := .ok none })

/-- The invariant holds at reset, and at power-on in every configuration that meets R6. -/
def Obligations.InvariantAtReset : Prop :=
  State.reset.Inv ∧ ∀ p : Params, p.Wf → (State.powerOn p).Inv

/-- Every step, whatever word it applies, keeps the invariant: FIFO levels and ring occupancies stay within their
capacities (R44), and the sequencers serve bound instances (60 R245, 44 R204). -/
def Obligations.StepKeepsInvariant : Prop :=
  ∀ s t : State, s.Inv → step s = .next t → t.Inv

/-- From every state that meets the invariant a step answers a next state: the model's own stops (log 13) are never
reached. With `StepKeepsInvariant` this is R14's "exactly one of three outcomes" for every run. -/
def Obligations.InvariantStatesNeverStop : Prop :=
  ∀ s : State, s.Inv → (∃ t, step s = .next t) ∧ ∀ x : Instr, ∃ t, exec x s = .next t ∧ t.reply ≠ .none

/-! ## Outcomes, faults, contexts (00_scope.md R14, 60_exceptions.md) -/

/-- R232: the state after a faulting word is the state before but for `FAULT`, which takes the code only if it was
0; and the word faults again in the state it leaves. -/
def Obligations.FaultingWordChangesOnlyFault : Prop :=
  ∀ (x : Instr) (s t : State) (c : FaultCode), exec x s = .next t → t.reply = .fault c →
    t = { s with fault := if s.fault = 0 then c.code else s.fault, reply := .fault c } ∧
      ∃ t', exec x t = .next t' ∧ t'.reply = .fault c

/-- R14: outcome hold leaves the state unchanged. -/
def Obligations.HeldWordChangesNothing : Prop :=
  ∀ (x : Instr) (s t : State), exec x s = .next t → t.reply = .hold → t = { s with reply := .hold }

/-- R23: `FAULT` is written only by an operation whose outcome is fault, and only if it is 0, and then takes that
fault's code; it is 0 at power-on. -/
def Obligations.FaultRegisterIsSticky : Prop :=
  (∀ p : Params, (State.powerOn p).fault = 0) ∧
    ∀ s t : State, step s = .next t →
      (t.fault ≠ s.fault → s.fault = 0 ∧ ∃ c, t.reply = .fault c ∧ t.fault = c.code) ∧
      (s.port ≠ [] → ∀ c, t.reply = .fault c → t.fault = if s.fault = 0 then c.code else s.fault)

/-- R231: the seven codes, and that each fault is raised only by its words and under its condition. -/
def Obligations.FaultCodesAndConditions : Prop :=
  (FaultCode.illegalWord.code = 1 ∧ FaultCode.noInstance.code = 2 ∧ FaultCode.doubleInit.code = 3 ∧
      FaultCode.deinitDuringPass.code = 4 ∧ FaultCode.rxFifoUnderrun.code = 5 ∧ FaultCode.txFifoOverrun.code = 6 ∧
      FaultCode.auxRace.code = 7) ∧
    ∀ (x : Instr) (s t : State), exec x s = .next t →
      (t.reply = .fault .illegalWord → x.wf = false) ∧
      (t.reply = .fault .noInstance →
        (∀ r f l, x ≠ .init x.inst r f l) ∧
          (s.params.numInst ≤ x.inst.toNat ∨
            ((s.uart x.inst).driver = none ∧
              ((∃ b, x = .txput x.inst b) ∨ x = .rxget x.inst ∨ x = .dispatch x.inst ∨ x = .deinit x.inst ∨
                (∃ f, x = .setrxen x.inst f) ∨ x = .flush x.inst ∨ ∃ n, x = .rdcsr x.inst n ∧
                  (n.toNat = 4 ∨ (5 ≤ n.toNat ∧ n.toNat ≤ 0x0A) ∨ (0x10 ≤ n.toNat ∧ n.toNat ≤ 0x16)))))) ∧
      (t.reply = .fault .doubleInit → ∃ i r f l, x = .init i r f l ∧ (s.uart i).driver ≠ none) ∧
      (t.reply = .fault .deinitDuringPass → ∃ i, x = .deinit i ∧ s.pass.ph ≠ .idle ∧ s.pass.inst = i) ∧
      (t.reply = .fault .rxFifoUnderrun → ∃ i, x = .rdbyte i ∧ (s.uart i).rxFifo = []) ∧
      (t.reply = .fault .txFifoOverrun →
        ∃ i b, x = .wrbyte i b ∧ (s.uart i).txFifo.length = s.params.hwTxDepth) ∧
      (t.reply = .fault .auxRace →
        ∃ i d, x = .pstep i ∧ s.pass.ph = .r1l ∧ (s.uart i).driver = some d ∧ 0 < min d.rxb.avail d.aux.used ∧
          (s.uart i).im &&& 0b0011 ≠ 0)

/-- R241: while the handler runs every task-context word holds; the hold is lifted at `IDLE`, where only the lock, a
pass not requested and a busy transmitter still hold one; the peripheral's events do not look at the interrupt
sequencer at all; an illegal word is still a fault. -/
def Obligations.TaskWordsHoldDuringHandler : Prop :=
  (∀ (x : Instr) (s : State), x.wf = true → x.agent = .host ∨ x.agent = .dispatch → s.isr.ph ≠ .idle → Holds x s) ∧
    (∀ (x : Instr) (s t : State), x.agent = .host ∨ x.agent = .dispatch → s.isr.ph = .idle → exec x s = .next t →
      t.reply = .hold →
        (s.pass.ph ≠ .idle ∧ ((∃ b, x = .txput x.inst b) ∨ x = .rxget x.inst)) ∨
        (s.pass.ph ≠ .idle ∧ s.pass.inst ≠ x.inst ∧ x = .pstep x.inst) ∨
        (s.pass.ph = .idle ∧ (s.uart x.inst).dispReq = false ∧ x = .pstep x.inst) ∨
        ((s.uart x.inst).txFifo ≠ [] ∧ x = .flush x.inst)) ∧
    (∀ (x : Instr) (s t : State) (y : Isr), x.agent = .peripheral → exec x s = .next t →
      exec x { s with isr := y } = .next { t with isr := y }) ∧
    ∀ (s : State) (p : PortWord) (rest : List PortWord), s.port = p :: rest → s.isr.ph ≠ .idle →
      (∀ x, decode p.word ≠ .ok x) → ∃ t, step s = .next t ∧ t.reply = .fault .illegalWord

/-! ## Hardware Register Interface (40_hw_register_interface.md) -/

/-- R100, R103, R109, R105: `BAVAIL`, `SAVAIL`, `BUSY` and `INTSTAT` drive their result and change nothing. -/
def Obligations.LevelAndStatusReads : Prop :=
  ∀ (i : InstId) (flag : Bool) (s : State),
    (EncodesAs (.bavail i) 0x01 0 ∧ TaskChecks (.bavail i) s ∧
      (TaskReady s i → Reads (.bavail i) s (if 0 < (s.uart i).rxFifo.length then 1 else 0))) ∧
    (EncodesAs (.savail i) 0x03 0 ∧ TaskChecks (.savail i) s ∧
      (TaskReady s i → Reads (.savail i) s (if (s.uart i).txFifo.length < s.params.hwTxDepth then 1 else 0))) ∧
    (EncodesAs (.busy i) 0x09 0 ∧ TaskChecks (.busy i) s ∧
      (TaskReady s i → Reads (.busy i) s (if 0 < (s.uart i).txFifo.length then 1 else 0))) ∧
    (EncodesAs (.intstat i flag) 0x05 (if flag then 1 else 0) ∧ TaskChecks (.intstat i flag) s ∧
      (TaskReady s i → Reads (.intstat i flag) s
        (if flag then ((s.uart i).ris &&& (s.uart i).im).setWidth 32 else (s.uart i).ris.setWidth 32)))

/-- R101: `RDBYTE` removes and returns the oldest byte of the receive FIFO; on an empty FIFO it is fault 5. -/
def Obligations.RdbyteTakesOldestByte : Prop :=
  ∀ (i : InstId) (s : State), EncodesAs (.rdbyte i) 0x02 0 ∧ TaskChecks (.rdbyte i) s ∧
    (TaskReady s i →
      ((s.uart i).rxFifo = [] → Faults (.rdbyte i) s .rxFifoUnderrun) ∧
      ∀ b q, (s.uart i).rxFifo = b :: q →
        Does (.rdbyte i) s i { s.uart i with rxFifo := q } s.isr s.pass (some (b.setWidth 32)))

/-- R104: `WRBYTE` appends the byte to the transmit FIFO; on a full FIFO it is fault 6. -/
def Obligations.WrbyteAppendsByte : Prop :=
  ∀ (i : InstId) (b : Byte) (s : State), EncodesAs (.wrbyte i b) 0x04 (b.setWidth 24) ∧ TaskChecks (.wrbyte i b) s ∧
    (TaskReady s i →
      ((s.uart i).txFifo.length = s.params.hwTxDepth → Faults (.wrbyte i b) s .txFifoOverrun) ∧
      ((s.uart i).txFifo.length < s.params.hwTxDepth →
        Does (.wrbyte i b) s i { s.uart i with txFifo := (s.uart i).txFifo ++ [b] } s.isr s.pass none))

/-- R106, R107, R108: `INTEN` ORs into `IM` (and if a named source is pending asserts the line, so that `ISTEP` no
longer holds), `INTDIS` clears in `IM`, `INTCLR` clears in `RIS`; the bits not named stay. -/
def Obligations.MaskWordsWriteNamedBits : Prop :=
  ∀ (i : InstId) (m : Mask) (s : State),
    (EncodesAs (.inten i m) 0x06 (m.setWidth 24) ∧ TaskChecks (.inten i m) s ∧
      (TaskReady s i →
        Does (.inten i m) s i { s.uart i with im := (s.uart i).im ||| m } s.isr s.pass none ∧
        ((s.uart i).ris &&& m ≠ 0 → ∀ t, exec (.inten i m) s = .next t → (t.uart i).ris &&& (t.uart i).im ≠ 0 ∧
          ∃ v, exec (.istep i) t = .next v ∧ v.reply = .ok none))) ∧
    (EncodesAs (.intdis i m) 0x07 (m.setWidth 24) ∧ TaskChecks (.intdis i m) s ∧
      (TaskReady s i →
        Does (.intdis i m) s i { s.uart i with im := (s.uart i).im &&& ~~~m } s.isr s.pass none)) ∧
    (EncodesAs (.intclr i m) 0x08 (m.setWidth 24) ∧ TaskChecks (.intclr i m) s ∧
      (TaskReady s i →
        Does (.intclr i m) s i { s.uart i with ris := (s.uart i).ris &&& ~~~m } s.isr s.pass none))

/-! ## Ring buffers and main buffers (41_ring_buffer.md) -/

/-- R132: over any sequence of ring operations, the old contents followed by the bytes the buffer took are the bytes
consumed followed by the contents left: nothing lost, duplicated or reordered. -/
def Obligations.RingIsAFifo : Prop :=
  ∀ (cap : Nat) (b : Ring) (ops : List RingOp), b.Wf cap →
    (runRing ops b).1.Wf cap ∧
      b.contents ++ (runRing ops b).2.1 = (runRing ops b).2.2 ++ (runRing ops b).1.contents

/-- R122, R123, R124 on a well-formed buffer: how much `append_n` takes, how long a view is and which bytes it shows,
and what `consume` drops. -/
def Obligations.RingPrimitivesMeetContract : Prop :=
  ∀ (cap : Nat) (b : Ring), b.Wf cap →
    (∀ bs, (b.appendN bs).2 = min bs.length b.avail ∧ (b.appendN bs).1.Wf cap ∧
      (b.appendN bs).1.contents = b.contents ++ bs.take b.avail) ∧
    (∀ m, b.getView m = (b.head, min m (min b.used (cap - b.head))) ∧
      ((b.getView m).2 = 0 ↔ m = 0 ∨ b.used = 0) ∧
      b.memRead (b.getView m).1 (b.getView m).2 = b.contents.take (b.getView m).2) ∧
    ∀ n, n ≤ b.used → (b.consume n).Wf cap ∧ (b.consume n).used = b.used - n ∧
      (b.consume n).head = (b.head + n) % cap ∧ (b.consume n).contents = b.contents.drop n

/-- R126: `TXPUT` appends the byte to `TXB` and drives 1, or drives 0 on a full buffer with no change; it holds while
a pass is in flight. -/
def Obligations.TxputAppendsToMainBuffer : Prop :=
  ∀ (i : InstId) (b : Byte) (s : State), EncodesAs (.txput i b) 0x10 (b.setWidth 24) ∧ BoundChecks (.txput i b) s ∧
    ∀ d, TaskReady s i → (s.uart i).driver = some d → d.txb.Wf s.params.txCap →
      (s.pass.ph ≠ .idle → Holds (.txput i b) s) ∧
      (s.pass.ph = .idle → d.txb.used = s.params.txCap → Reads (.txput i b) s 0) ∧
      (s.pass.ph = .idle → d.txb.used < s.params.txCap → ∃ r : Ring, r.Wf s.params.txCap ∧
        r.head = d.txb.head ∧ r.used = d.txb.used + 1 ∧ r.contents = d.txb.contents ++ [b] ∧
        Does (.txput i b) s i { s.uart i with driver := some { d with txb := r } } s.isr s.pass (some 1))

/-- R127: `RXGET` takes the oldest byte of `RXB` and drives `0x100 | b`, or drives 0 on an empty buffer with no
change; it holds while a pass is in flight. -/
def Obligations.RxgetTakesFromMainBuffer : Prop :=
  ∀ (i : InstId) (s : State), EncodesAs (.rxget i) 0x11 0 ∧ BoundChecks (.rxget i) s ∧
    ∀ d, TaskReady s i → (s.uart i).driver = some d → d.rxb.Wf s.params.rxCap →
      (s.pass.ph ≠ .idle → Holds (.rxget i) s) ∧
      (s.pass.ph = .idle → d.rxb.contents = [] → Reads (.rxget i) s 0) ∧
      ∀ b rest, s.pass.ph = .idle → d.rxb.contents = b :: rest → ∃ r : Ring, r.Wf s.params.rxCap ∧
        r.head = (d.rxb.head + 1) % s.params.rxCap ∧ r.used = d.rxb.used - 1 ∧ r.contents = rest ∧
        Does (.rxget i) s i { s.uart i with driver := some { d with rxb := r } } s.isr s.pass
          (some (0x100 ||| b.setWidth 32))

/-! ## The Interrupt Handler (42_interrupt_handler.md) -/

/-- R141 and R143: `IRQ` enters the handler of a bound instance whatever its status, with the masked status
snapshotted; it is a no-op on an unbound instance, and holds while a handler is in flight. -/
def Obligations.IrqEntersHandler : Prop :=
  ∀ (i : InstId) (s : State), EncodesAs (.irq i) 0x18 0 ∧ RangeCheck (.irq i) s ∧
    (i.toNat < s.params.numInst →
      (s.isr.ph ≠ .idle → Holds (.irq i) s) ∧
      (s.isr.ph = .idle → (s.uart i).driver = none → exec (.irq i) s = .next { s with reply := .ok none }) ∧
      (s.isr.ph = .idle → (s.uart i).driver ≠ none →
        Does (.irq i) s i (s.uart i)
          { ph := .i2, inst := i, snap := (s.uart i).ris &&& (s.uart i).im, dis := 0, fired := false } s.pass none))

/-- R142, R143, R152 for the entry: `ISTEP` at `IDLE` enters the handler if the line of the instance is asserted and
holds if it is not; on an unbound instance entry is a no-op; while another instance is served it holds. -/
def Obligations.IstepEntersHandler : Prop :=
  ∀ (i : InstId) (s : State), EncodesAs (.istep i) 0x19 0 ∧ RangeCheck (.istep i) s ∧
    (i.toNat < s.params.numInst →
      (s.isr.ph ≠ .idle → s.isr.inst ≠ i → Holds (.istep i) s) ∧
      (s.isr.ph = .idle → (s.uart i).ris &&& (s.uart i).im = 0 → Holds (.istep i) s) ∧
      (s.isr.ph = .idle → (s.uart i).ris &&& (s.uart i).im ≠ 0 → (s.uart i).driver = none →
        exec (.istep i) s = .next { s with reply := .ok none }) ∧
      (s.isr.ph = .idle → (s.uart i).ris &&& (s.uart i).im ≠ 0 → (s.uart i).driver ≠ none →
        Does (.istep i) s i (s.uart i)
          { ph := .i2, inst := i, snap := (s.uart i).ris &&& (s.uart i).im, dis := 0, fired := false } s.pass none))

/-- R144, R145, R146, R148: the counting micro-operations `I2`, `I3`, `I4`, `I5`. -/
def Obligations.HandlerCountsBySnapshot : Prop :=
  ∀ (i : InstId) (s : State) (d : Driver),
    (HandlerAt s .i2 i d →
      Does (.istep i) s i
        { s.uart i with driver := some { d with stats := { d.stats with ints := d.stats.ints + 1 } } }
        { s.isr with ph := .i3 } s.pass none) ∧
    (HandlerAt s .i3 i d →
      (s.isr.snap &&& 0b1000 ≠ 0 → Does (.istep i) s i
        { s.uart i with driver := some { d with stats := { d.stats with rxOverflows := d.stats.rxOverflows + 1 } } }
        { s.isr with ph := .i4, fired := true } s.pass none) ∧
      (s.isr.snap &&& 0b1000 = 0 → Does (.istep i) s i (s.uart i) { s.isr with ph := .i4 } s.pass none)) ∧
    (HandlerAt s .i4 i d →
      (s.isr.snap &&& 0b0011 ≠ 0 → Does (.istep i) s i
        { s.uart i with driver := some { d with stats := { d.stats with rxInts := d.stats.rxInts + 1 } } }
        { s.isr with ph := .i4l, fired := true } s.pass none) ∧
      (s.isr.snap &&& 0b0011 = 0 → Does (.istep i) s i (s.uart i) { s.isr with ph := .i5 } s.pass none)) ∧
    (HandlerAt s .i5 i d →
      (s.isr.snap &&& 0b0100 ≠ 0 → Does (.istep i) s i
        { s.uart i with driver := some { d with stats := { d.stats with txInts := d.stats.txInts + 1 } } }
        { s.isr with ph := .i6, dis := s.isr.dis ||| 0b0100, fired := true } s.pass none) ∧
      (s.isr.snap &&& 0b0100 = 0 → Does (.istep i) s i (s.uart i) { s.isr with ph := .i6 } s.pass none))

/-- R147: one visit of the drain loop `I4L` moves the oldest FIFO byte to the tail of `AUX` if there is a byte and
room; else it ends the loop, marking the receive interrupts for disabling exactly if `AUX` is full. -/
def Obligations.HandlerDrainsFifoIntoAux : Prop :=
  ∀ (i : InstId) (s : State) (d : Driver), HandlerAt s .i4l i d → d.aux.Wf s.params.auxCap →
    (∀ b q, (s.uart i).rxFifo = b :: q → 0 < d.aux.avail → ∃ r : Ring, r.Wf s.params.auxCap ∧
      r.head = d.aux.head ∧ r.used = d.aux.used + 1 ∧ r.contents = d.aux.contents ++ [b] ∧
      Does (.istep i) s i { s.uart i with rxFifo := q, driver := some { d with aux := r } } s.isr s.pass none) ∧
    (d.aux.avail = 0 →
      Does (.istep i) s i (s.uart i) { s.isr with ph := .i5, dis := s.isr.dis ||| 0b0011 } s.pass none) ∧
    ((s.uart i).rxFifo = [] → 0 < d.aux.avail →
      Does (.istep i) s i (s.uart i) { s.isr with ph := .i5 } s.pass none)

/-- R149, R150, R151: `I6` requests a dispatch if anything fired, `I7A` applies the disable mask, `I7B` clears the
snapshot's bits and ends the handler. The fields of `isr` besides the phase are unspecified while it is idle, so the
last clause says nothing of them (log 10). -/
def Obligations.HandlerRequestsMasksAndReturns : Prop :=
  ∀ (i : InstId) (s : State) (d : Driver),
    (HandlerAt s .i6 i d →
      (s.isr.fired = true →
        Does (.istep i) s i { s.uart i with dispReq := true } { s.isr with ph := .i7a } s.pass none) ∧
      (s.isr.fired = false → Does (.istep i) s i (s.uart i) { s.isr with ph := .i7a } s.pass none)) ∧
    (HandlerAt s .i7a i d →
      Does (.istep i) s i { s.uart i with im := (s.uart i).im &&& ~~~s.isr.dis } { s.isr with ph := .i7b }
        s.pass none) ∧
    (HandlerAt s .i7b i d → ∃ x : Isr, x.ph = .idle ∧
      Does (.istep i) s i { s.uart i with ris := (s.uart i).ris &&& ~~~s.isr.snap } x s.pass none)

/-- R140, R154: no handler word reaches `pass`, `RXB`, `TXB` or anything else of task context; once entered it never
holds or faults; and it never enables a source. -/
def Obligations.HandlerStaysInItsContext : Prop :=
  (∀ s : State, s.Inv → s.isr.ph ≠ .idle → ∃ t, exec (.istep s.isr.inst) s = .next t ∧ t.reply = .ok none) ∧
    ∀ (x : Instr) (s t : State) (j : InstId), x.agent = .interrupt → exec x s = .next t →
      t.pass = s.pass ∧
      (t.uart j).txFifo = (s.uart j).txFifo ∧ (t.uart j).pen = (s.uart j).pen ∧ (t.uart j).rtr = (s.uart j).rtr ∧
      (t.uart j).txLine = (s.uart j).txLine ∧ (t.uart j).rxLost = (s.uart j).rxLost ∧
      (∀ k, (t.uart j).im.getLsbD k = true → (s.uart j).im.getLsbD k = true) ∧
      ((s.uart j).driver = none → (t.uart j).driver = none) ∧
      ∀ d, (s.uart j).driver = some d → ∃ e, (t.uart j).driver = some e ∧ e.cfg = d.cfg ∧
        e.rxEnabled = d.rxEnabled ∧ e.rxb = d.rxb ∧ e.txb = d.txb ∧ e.stats.rxBytes = d.stats.rxBytes ∧
        e.stats.txBytes = d.stats.txBytes ∧ e.stats.rxLingerConts = d.stats.rxLingerConts

/-- R153, R156, R157 over a whole invocation with nothing interleaved: entered by `IRQ`, or by `ISTEP` for pending
enabled sources, the handler ends after exactly 8 words, or `9 + m` with `m` bytes moved, at most `9 + AUX_CAP` in
all; it counts, drains, disables, requests and clears as the decision table says, its first row included. -/
def Obligations.HandlerInvocationFollowsTable : Prop :=
  ∀ (i : InstId) (x : Instr) (s : State) (d : Driver), s.Inv → s.isr.ph = .idle → i.toNat < s.params.numInst →
    (s.uart i).driver = some d → x = .irq i ∨ (x = .istep i ∧ (s.uart i).ris &&& (s.uart i).im ≠ 0) →
    let snap := (s.uart i).ris &&& (s.uart i).im
    let m := if snap &&& 0b0011 ≠ 0 then min (s.uart i).rxFifo.length d.aux.avail else 0
    let n := if snap &&& 0b0011 ≠ 0 then 9 + m else 8
    let full := snap &&& 0b0011 ≠ 0 ∧ m = d.aux.avail
    let dis : Mask := (if full then 0b0011 else 0) ||| (snap &&& 0b0100)
    n ≤ 9 + s.params.auxCap ∧ ∃ v : State, exec x s = .next v ∧
    (∀ k, k < n - 1 → ∃ w, isrRun i k v = .next w ∧ w.isr.ph ≠ .idle) ∧
    ∃ (t : State) (r : Ring), isrRun i (n - 1) v = .next t ∧ t.isr.ph = .idle ∧ t.pass = s.pass ∧
      t.reply = .ok none ∧ FrameShared i s t ∧ r.Wf s.params.auxCap ∧
      r.contents = d.aux.contents ++ (s.uart i).rxFifo.take m ∧
      t.uart i = { s.uart i with
        rxFifo := (s.uart i).rxFifo.drop m
        ris := (s.uart i).ris &&& ~~~snap
        im := (s.uart i).im &&& ~~~dis
        dispReq := if snap ≠ 0 then true else (s.uart i).dispReq
        driver := some { d with
          aux := r
          stats := { d.stats with
            ints := d.stats.ints + 1
            rxOverflows := d.stats.rxOverflows + (if snap &&& 0b1000 ≠ 0 then 1 else 0)
            rxInts := d.stats.rxInts + (if snap &&& 0b0011 ≠ 0 then 1 else 0)
            txInts := d.stats.txInts + (if snap &&& 0b0100 ≠ 0 then 1 else 0) } } }

/-! ## The dispatch pass (43_dispatch.md) -/

/-- R160: `DISPATCH` sets the request of a bound instance, and nothing else; it never holds for the lock. -/
def Obligations.DispatchRequestsAPass : Prop :=
  ∀ (i : InstId) (s : State), EncodesAs (.dispatch i) 0x1A 0 ∧ BoundChecks (.dispatch i) s ∧
    (TaskReady s i → (s.uart i).driver ≠ none →
      Does (.dispatch i) s i { s.uart i with dispReq := true } s.isr s.pass none)

/-- R161, R162, R166 for the start: `PSTEP` holds with nothing requested or while another pass holds the lock; `D0`
takes the request and the lock and loads the budget, or drops the request of an unbound instance. -/
def Obligations.PstepStartsAPass : Prop :=
  ∀ (i : InstId) (s : State), EncodesAs (.pstep i) 0x1B 0 ∧ TaskChecks (.pstep i) s ∧
    (TaskReady s i →
      (s.pass.ph ≠ .idle → s.pass.inst ≠ i → Holds (.pstep i) s) ∧
      (s.pass.ph = .idle → (s.uart i).dispReq = false → Holds (.pstep i) s) ∧
      (s.pass.ph = .idle → (s.uart i).dispReq = true → (s.uart i).driver = none →
        Does (.pstep i) s i { s.uart i with dispReq := false } s.isr s.pass none) ∧
      ∀ d, s.pass.ph = .idle → (s.uart i).dispReq = true → (s.uart i).driver = some d →
        Does (.pstep i) s i { s.uart i with dispReq := false } s.isr
          { ph := .r1, inst := i, recd := false, lingerLeft := d.cfg.lingerUs.toNat * s.params.itersPerUs } none)

/-- R163: `R1` masks the receive interrupts only if `AUX` holds bytes. -/
def Obligations.PassMasksOnlyIfAuxHoldsBytes : Prop :=
  ∀ (i : InstId) (s : State) (d : Driver), PassAt s .r1 i d →
    (0 < d.aux.used → Does (.pstep i) s i { s.uart i with im := (s.uart i).im &&& ~~~0b0011 } s.isr
      { s.pass with ph := .r1l } none) ∧
    (d.aux.used = 0 → Does (.pstep i) s i (s.uart i) s.isr { s.pass with ph := .r2 } none)

/-- R164: `R1L` moves one contiguous run of the oldest `AUX` bytes to the tail of `RXB` and counts them; it ends when
either is exhausted, and is fault `AuxRace` if a receive interrupt is unmasked while a move is due. -/
def Obligations.PassMovesAuxToMainBuffer : Prop :=
  ∀ (i : InstId) (s : State) (d : Driver), PassAt s .r1l i d → d.aux.Wf s.params.auxCap → d.rxb.Wf s.params.rxCap →
    (d.rxb.avail = 0 ∨ d.aux.used = 0 → Does (.pstep i) s i (s.uart i) s.isr { s.pass with ph := .r2 } none) ∧
    (0 < d.rxb.avail → 0 < d.aux.used →
      ((s.uart i).im &&& 0b0011 ≠ 0 → Faults (.pstep i) s .auxRace) ∧
      ((s.uart i).im &&& 0b0011 = 0 → ∃ (c : Nat) (a r : Ring),
        c = min (min d.rxb.avail d.aux.used) (s.params.auxCap - d.aux.head) ∧ 1 ≤ c ∧
        a.Wf s.params.auxCap ∧ a.contents = d.aux.contents.drop c ∧ a.used = d.aux.used - c ∧
        a.head = (d.aux.head + c) % s.params.auxCap ∧
        r.Wf s.params.rxCap ∧ r.contents = d.rxb.contents ++ d.aux.contents.take c ∧ r.used = d.rxb.used + c ∧
        r.head = d.rxb.head ∧
        Does (.pstep i) s i
          { s.uart i with driver := some { d with
              aux := a
              rxb := r
              stats := { d.stats with rxBytes := d.stats.rxBytes + BitVec.ofNat 32 c } } }
          s.isr { s.pass with recd := true } none))

/-- R165: `R2` moves one FIFO byte to the tail of `RXB` and counts it, or goes on to the linger. -/
def Obligations.PassDrainsFifoIntoMainBuffer : Prop :=
  ∀ (i : InstId) (s : State) (d : Driver), PassAt s .r2 i d → d.rxb.Wf s.params.rxCap →
    (∀ b q, (s.uart i).rxFifo = b :: q → 0 < d.rxb.avail → ∃ r : Ring, r.Wf s.params.rxCap ∧
      r.head = d.rxb.head ∧ r.used = d.rxb.used + 1 ∧ r.contents = d.rxb.contents ++ [b] ∧
      Does (.pstep i) s i
        { s.uart i with
          rxFifo := q
          driver := some { d with rxb := r, stats := { d.stats with rxBytes := d.stats.rxBytes + 1 } } }
        s.isr { s.pass with recd := true } none) ∧
    (d.rxb.avail = 0 ∨ (s.uart i).rxFifo = [] →
      Does (.pstep i) s i (s.uart i) s.isr { s.pass with ph := .r3 } none)

/-- R170: one visit of `R3` polls while bytes were received, `RXB` has room, a budget is configured and some of it is
left; a poll that finds a byte counts a continuation and returns to the drain. -/
def Obligations.PassLingersWithinBudget : Prop :=
  ∀ (i : InstId) (s : State) (d : Driver), PassAt s .r3 i d →
    (s.pass.recd = true → 0 < d.rxb.avail → d.cfg.lingerUs ≠ 0 → 0 < s.pass.lingerLeft →
      ((s.uart i).rxFifo = [] →
        Does (.pstep i) s i (s.uart i) s.isr { s.pass with lingerLeft := s.pass.lingerLeft - 1 } none) ∧
      ((s.uart i).rxFifo ≠ [] →
        Does (.pstep i) s i
          { s.uart i with driver := some { d with
              stats := { d.stats with rxLingerConts := d.stats.rxLingerConts + 1 } } }
          s.isr { s.pass with ph := .r2, lingerLeft := s.pass.lingerLeft - 1 } none)) ∧
    (s.pass.recd = false ∨ d.rxb.avail = 0 ∨ d.cfg.lingerUs = 0 ∨ s.pass.lingerLeft = 0 →
      Does (.pstep i) s i (s.uart i) s.isr { s.pass with ph := .r4 } none)

/-- R171, R173: `R4` clears the two receive bits of the status and `T2` the transmit bit, whatever the FIFOs hold. -/
def Obligations.PassClearsHandledStatus : Prop :=
  ∀ (i : InstId) (s : State) (d : Driver),
    (PassAt s .r4 i d → Does (.pstep i) s i { s.uart i with ris := (s.uart i).ris &&& ~~~0b0011 } s.isr
      { s.pass with ph := .t1 } none) ∧
    (PassAt s .t2 i d → Does (.pstep i) s i { s.uart i with ris := (s.uart i).ris &&& ~~~0b0100 } s.isr
      { s.pass with ph := .b1 } none)

/-- R172: `T1` moves one byte from `TXB` to the transmit FIFO and counts it, while `TXB` holds bytes and the FIFO has
space. -/
def Obligations.PassSendsOneByte : Prop :=
  ∀ (i : InstId) (s : State) (d : Driver), PassAt s .t1 i d → d.txb.Wf s.params.txCap →
    (∀ b rest, d.txb.contents = b :: rest → (s.uart i).txFifo.length < s.params.hwTxDepth →
      ∃ r : Ring, r.Wf s.params.txCap ∧ r.head = (d.txb.head + 1) % s.params.txCap ∧ r.used = d.txb.used - 1 ∧
        r.contents = rest ∧
        Does (.pstep i) s i
          { s.uart i with
            txFifo := (s.uart i).txFifo ++ [b]
            driver := some { d with txb := r, stats := { d.stats with txBytes := d.stats.txBytes + 1 } } }
          s.isr s.pass none) ∧
    (d.txb.used = 0 ∨ s.params.hwTxDepth ≤ (s.uart i).txFifo.length →
      Does (.pstep i) s i (s.uart i) s.isr { s.pass with ph := .t2 } none)

/-- R174: `B1` enables overrun always, the receive interrupts iff reception is enabled and `AUX` has room, the
transmit interrupt iff `TXB` holds bytes; it turns none off, and the lock is free. The fields of `pass` besides the
phase are unspecified then, so nothing is said of them (log 10). -/
def Obligations.BottomHalfRearms : Prop :=
  ∀ (i : InstId) (s : State) (d : Driver), PassAt s .b1 i d → ∃ y : Pass, y.ph = .idle ∧
    Does (.pstep i) s i
      { s.uart i with im := (s.uart i).im ||| 0b1000 |||
          (if d.rxEnabled = true ∧ 0 < d.aux.avail then 0b0011 else 0) |||
          (if 0 < d.txb.used then 0b0100 else 0) }
      s.isr y none

/-- R176, whatever the other agents do: while a pass is in flight, every one of its steps that is ok lowers the
measure `passMeasure`, and no other word changes it; just after `D0` it is at most `RX_CAP + TX_CAP + 2L + 8`. -/
def Obligations.PassMeasureFalls : Prop :=
  (∀ (x : Instr) (s t : State), s.Inv → s.pass.ph ≠ .idle → exec x s = .next t →
    (x = .pstep s.pass.inst → t.reply = .ok none → t.passMeasure < s.passMeasure) ∧
    (x ≠ .pstep s.pass.inst → t.pass = s.pass ∧ t.passMeasure = s.passMeasure)) ∧
  ∀ (s : State), s.Inv → s.pass.ph = .r1 →
    s.passMeasure ≤ s.params.rxCap + s.params.txCap + 2 * s.lingerBudget s.pass.inst + 8

/-- R176 with R177 for a pass with nothing interleaved: it ends within `RX_CAP + TX_CAP + 2L + 9` words with no fault,
and moves the oldest `min(K, space)` bytes of `TXB` to the transmit FIFO, counting each. -/
def Obligations.PassEndsAndTransmits : Prop :=
  ∀ (i : InstId) (s : State) (d : Driver), s.Inv → s.isr.ph = .idle → s.pass.ph = .idle →
    i.toNat < s.params.numInst → (s.uart i).dispReq = true → (s.uart i).driver = some d →
    let m := min d.txb.used (s.params.hwTxDepth - (s.uart i).txFifo.length)
    ∃ (t : State) (e : Driver), passRun i (s.passBound i) s = .next t ∧ t.pass.ph = .idle ∧ t.fault = s.fault ∧
      (t.uart i).txFifo = (s.uart i).txFifo ++ d.txb.contents.take m ∧ (t.uart i).driver = some e ∧
      e.txb.contents = d.txb.contents.drop m ∧ e.stats.txBytes = d.stats.txBytes + BitVec.ofNat 32 m

/-! ## Host commands (44_host_lifecycle.md) -/

/-- R200, R202: `INIT` in the order of its checks: context, instance range, double initialisation, flow control,
allocation; then it binds the instance with empty buffers, zero counters, reception off, interrupts off, peripheral
on. The slots of the fresh buffers are unspecified, so nothing is said of them (log 11). -/
def Obligations.InitBindsInstance : Prop :=
  ∀ (i : InstId) (rxFc txFc : Bool) (l : BitVec 22) (s : State), s.params.Wf →
    EncodesAs (.init i rxFc txFc l) 0x20 (BitVec.ofBool rxFc ++ BitVec.ofBool txFc ++ l) ∧
    (s.isr.ph ≠ .idle → Holds (.init i rxFc txFc l) s) ∧
    (s.isr.ph = .idle → s.params.numInst ≤ i.toNat → Reads (.init i rxFc txFc l) s 0xFFFFFFFF) ∧
    (TaskReady s i → (s.uart i).driver ≠ none → Faults (.init i rxFc txFc l) s .doubleInit) ∧
    (TaskReady s i → (s.uart i).driver = none →
      ((rxFc = true ∨ txFc = true) ∧ s.fcSupported i = false ∨ s.allocOk = false →
        Reads (.init i rxFc txFc l) s 0xFFFFFFFF) ∧
      ((rxFc = true ∨ txFc = true → s.fcSupported i = true) → s.allocOk = true →
        ∃ d : Driver, d.cfg = { rxFc := rxFc, txFc := txFc, lingerUs := l } ∧ d.rxEnabled = false ∧
          d.stats = { ints := 0, rxInts := 0, txInts := 0, rxBytes := 0, txBytes := 0, rxOverflows := 0,
                      rxLingerConts := 0 } ∧
          (d.aux.Wf s.params.auxCap ∧ d.aux.head = 0 ∧ d.aux.used = 0) ∧
          (d.rxb.Wf s.params.rxCap ∧ d.rxb.head = 0 ∧ d.rxb.used = 0) ∧
          (d.txb.Wf s.params.txCap ∧ d.txb.head = 0 ∧ d.txb.used = 0) ∧
          Does (.init i rxFc txFc l) s i { s.uart i with driver := some d, pen := true, im := 0 } s.isr s.pass
            (some 0)))

/-- R203: `DEINIT` disables the peripheral and its interrupts and unbinds the instance in one step; it is fault 4
while a pass on the instance is in flight. -/
def Obligations.DeinitUnbindsInstance : Prop :=
  ∀ (i : InstId) (s : State), EncodesAs (.deinit i) 0x21 0 ∧ BoundChecks (.deinit i) s ∧
    (TaskReady s i → (s.uart i).driver ≠ none →
      (s.pass.ph ≠ .idle → s.pass.inst = i → Faults (.deinit i) s .deinitDuringPass) ∧
      (s.pass.ph = .idle ∨ s.pass.inst ≠ i →
        Does (.deinit i) s i { s.uart i with pen := false, im := 0, driver := none } s.isr s.pass none))

/-- R205: `SETRXEN` writes the receive-enabled flag; enabling asserts `RTR` only if receive flow control is
configured and else leaves it; disabling always deasserts it. -/
def Obligations.SetrxenWritesFlagAndReadyLine : Prop :=
  ∀ (i : InstId) (flag : Bool) (s : State),
    EncodesAs (.setrxen i flag) 0x22 (if flag then 1 else 0) ∧ BoundChecks (.setrxen i flag) s ∧
    ∀ d, TaskReady s i → (s.uart i).driver = some d →
      (flag = true → d.cfg.rxFc = true → Does (.setrxen i flag) s i
        { s.uart i with driver := some { d with rxEnabled := true }, rtr := true } s.isr s.pass none) ∧
      (flag = true → d.cfg.rxFc = false → Does (.setrxen i flag) s i
        { s.uart i with driver := some { d with rxEnabled := true } } s.isr s.pass none) ∧
      (flag = false → Does (.setrxen i flag) s i
        { s.uart i with driver := some { d with rxEnabled := false }, rtr := false } s.isr s.pass none)

/-- R207: `FLUSH` holds while the transmit FIFO holds bytes, and is ok with no change otherwise. -/
def Obligations.FlushWaitsForTransmitFifo : Prop :=
  ∀ (i : InstId) (s : State), EncodesAs (.flush i) 0x23 0 ∧ BoundChecks (.flush i) s ∧
    (TaskReady s i → (s.uart i).driver ≠ none →
      ((s.uart i).txFifo ≠ [] → Holds (.flush i) s) ∧
      ((s.uart i).txFifo = [] → exec (.flush i) s = .next { s with reply := .ok none }))

/-- R208 with the table of 10_state.md R40: every listed number reads its register and changes nothing; a driver
register of an unbound instance is `NoInstance`; an unlisted number is `IllegalWord` in every state. For a count of
2^32 or more the spec states no read-out: that `AUXUSED` to `TXBAVAIL`, `RXFLVL`, `TXFLVL` and `LINGERLEFT` then read as
the low 32 bits is the model's reading (DEDUCED, log 15). -/
def Obligations.RdcsrReadsTheTable : Prop :=
  ∀ (i : InstId) (s : State),
    (∀ n : Byte, EncodesAs (.rdcsr i n) 0x24 (n.setWidth 24)) ∧
    (∀ n : Byte, 0x16 < n.toNat → Faults (.rdcsr i n) s .illegalWord) ∧
    (∀ n : Byte, n.toNat ≤ 0x16 → TaskChecks (.rdcsr i n) s) ∧
    (TaskReady s i →
      (Reads (.rdcsr i 0x00) s ((s.uart i).ris.setWidth 32) ∧
       Reads (.rdcsr i 0x01) s ((s.uart i).im.setWidth 32) ∧
       Reads (.rdcsr i 0x02) s (((s.uart i).ris &&& (s.uart i).im).setWidth 32) ∧
       Reads (.rdcsr i 0x03) s
        ((if (s.uart i).pen then 1 else 0) + (if (s.uart i).rtr then 2 else 0) +
          (if (s.uart i).driver.any (fun d => d.rxEnabled) then 4 else 0) +
          (if (s.uart i).driver = none then 0 else 8) + (if (s.uart i).dispReq then 16 else 0)) ∧
       Reads (.rdcsr i 0x0B) s (BitVec.ofNat 32 (s.uart i).rxFifo.length) ∧
       Reads (.rdcsr i 0x0C) s (BitVec.ofNat 32 (s.uart i).txFifo.length) ∧
       (s.pass.inst ≠ i → Reads (.rdcsr i 0x0D) s 0 ∧ Reads (.rdcsr i 0x0E) s 0) ∧
       (s.pass.ph = .idle → Reads (.rdcsr i 0x0D) s 0 ∧ Reads (.rdcsr i 0x0E) s 0) ∧
       (s.pass.inst = i →
        (s.pass.ph = .r1 → Reads (.rdcsr i 0x0D) s 1) ∧ (s.pass.ph = .r1l → Reads (.rdcsr i 0x0D) s 2) ∧
        (s.pass.ph = .r2 → Reads (.rdcsr i 0x0D) s 3) ∧ (s.pass.ph = .r3 → Reads (.rdcsr i 0x0D) s 4) ∧
        (s.pass.ph = .r4 → Reads (.rdcsr i 0x0D) s 5) ∧ (s.pass.ph = .t1 → Reads (.rdcsr i 0x0D) s 6) ∧
        (s.pass.ph = .t2 → Reads (.rdcsr i 0x0D) s 7) ∧ (s.pass.ph = .b1 → Reads (.rdcsr i 0x0D) s 8) ∧
        (s.pass.ph ≠ .idle → Reads (.rdcsr i 0x0E) s (BitVec.ofNat 32 s.pass.lingerLeft))) ∧
       Reads (.rdcsr i 0x0F) s s.fault) ∧
      ((s.uart i).driver = none → ∀ n : Byte,
        n.toNat = 4 ∨ (5 ≤ n.toNat ∧ n.toNat ≤ 0x0A) ∨ (0x10 ≤ n.toNat ∧ n.toNat ≤ 0x16) →
        Faults (.rdcsr i n) s .noInstance) ∧
      ∀ d, (s.uart i).driver = some d →
        Reads (.rdcsr i 0x04) s
          ((BitVec.ofBool d.cfg.rxFc ++ BitVec.ofBool d.cfg.txFc ++ d.cfg.lingerUs : BitVec 24).setWidth 32) ∧
        Reads (.rdcsr i 0x05) s (BitVec.ofNat 32 d.aux.used) ∧ Reads (.rdcsr i 0x06) s (BitVec.ofNat 32 d.aux.avail) ∧
        Reads (.rdcsr i 0x07) s (BitVec.ofNat 32 d.rxb.used) ∧ Reads (.rdcsr i 0x08) s (BitVec.ofNat 32 d.rxb.avail) ∧
        Reads (.rdcsr i 0x09) s (BitVec.ofNat 32 d.txb.used) ∧ Reads (.rdcsr i 0x0A) s (BitVec.ofNat 32 d.txb.avail) ∧
        Reads (.rdcsr i 0x10) s d.stats.ints ∧ Reads (.rdcsr i 0x11) s d.stats.rxInts ∧
        Reads (.rdcsr i 0x12) s d.stats.txInts ∧ Reads (.rdcsr i 0x13) s d.stats.rxBytes ∧
        Reads (.rdcsr i 0x14) s d.stats.txBytes ∧ Reads (.rdcsr i 0x15) s d.stats.rxOverflows ∧
        Reads (.rdcsr i 0x16) s d.stats.rxLingerConts)

/-! ## Peripheral events (45_peripheral_events.md) -/

/-- R221: an arriving byte is discarded while the peripheral is off; else queued, with `RX` raised at the trigger
level; else, on a full FIFO, lost, with `OE` raised. -/
def Obligations.RxarriveQueuesOrLosesByte : Prop :=
  ∀ (i : InstId) (b : Byte) (s : State),
    EncodesAs (.rxarrive i b) 0x30 (b.setWidth 24) ∧ RangeCheck (.rxarrive i b) s ∧
    (i.toNat < s.params.numInst →
      ((s.uart i).pen = false → exec (.rxarrive i b) s = .next { s with reply := .ok none }) ∧
      ((s.uart i).pen = true →
        ((s.uart i).rxFifo.length < s.params.hwRxDepth →
          ((s.uart i).rxFifo.length + 1 < s.params.rxTrig → Does (.rxarrive i b) s i
            { s.uart i with rxFifo := (s.uart i).rxFifo ++ [b] } s.isr s.pass none) ∧
          (s.params.rxTrig ≤ (s.uart i).rxFifo.length + 1 → Does (.rxarrive i b) s i
            { s.uart i with rxFifo := (s.uart i).rxFifo ++ [b], ris := (s.uart i).ris ||| 0b0001 }
            s.isr s.pass none)) ∧
        (s.params.hwRxDepth ≤ (s.uart i).rxFifo.length → Does (.rxarrive i b) s i
          { s.uart i with rxLost := (s.uart i).rxLost + 1, ris := (s.uart i).ris ||| 0b1000 } s.isr s.pass none)))

/-- R222, R223, R225: `RXTIMEOUT`, `RXLEVEL`, `TXLEVEL` set their status bit while their condition holds on an enabled
peripheral, and hold otherwise. -/
def Obligations.StatusEventsSetTheirBit : Prop :=
  ∀ (i : InstId) (s : State),
    (EncodesAs (.rxtimeout i) 0x31 0 ∧ RangeCheck (.rxtimeout i) s ∧ (i.toNat < s.params.numInst →
      ((s.uart i).pen = false ∨ (s.uart i).rxFifo = [] → Holds (.rxtimeout i) s) ∧
      ((s.uart i).pen = true → (s.uart i).rxFifo ≠ [] →
        Does (.rxtimeout i) s i { s.uart i with ris := (s.uart i).ris ||| 0b0010 } s.isr s.pass none))) ∧
    (EncodesAs (.rxlevel i) 0x32 0 ∧ RangeCheck (.rxlevel i) s ∧ (i.toNat < s.params.numInst →
      ((s.uart i).pen = false ∨ (s.uart i).rxFifo.length < s.params.rxTrig → Holds (.rxlevel i) s) ∧
      ((s.uart i).pen = true → s.params.rxTrig ≤ (s.uart i).rxFifo.length →
        Does (.rxlevel i) s i { s.uart i with ris := (s.uart i).ris ||| 0b0001 } s.isr s.pass none))) ∧
    (EncodesAs (.txlevel i) 0x34 0 ∧ RangeCheck (.txlevel i) s ∧ (i.toNat < s.params.numInst →
      ((s.uart i).pen = false ∨ s.params.txTrig < (s.uart i).txFifo.length → Holds (.txlevel i) s) ∧
      ((s.uart i).pen = true → (s.uart i).txFifo.length ≤ s.params.txTrig →
        Does (.txlevel i) s i { s.uart i with ris := (s.uart i).ris ||| 0b0100 } s.isr s.pass none)))

/-- R224: `TXSHIFT` sends the oldest byte of the transmit FIFO, drives it as the result, and raises `TX` at or below
the trigger level; it holds on a disabled peripheral or an empty FIFO. -/
def Obligations.TxshiftSendsOldestByte : Prop :=
  ∀ (i : InstId) (s : State), EncodesAs (.txshift i) 0x33 0 ∧ RangeCheck (.txshift i) s ∧
    (i.toNat < s.params.numInst →
      ((s.uart i).pen = false ∨ (s.uart i).txFifo = [] → Holds (.txshift i) s) ∧
      ∀ b q, (s.uart i).pen = true → (s.uart i).txFifo = b :: q →
        (s.params.txTrig < q.length → Does (.txshift i) s i
          { s.uart i with txFifo := q, txLine := (s.uart i).txLine ++ [b] } s.isr s.pass (some (b.setWidth 32))) ∧
        (q.length ≤ s.params.txTrig → Does (.txshift i) s i
          { s.uart i with txFifo := q, txLine := (s.uart i).txLine ++ [b], ris := (s.uart i).ris ||| 0b0100 }
          s.isr s.pass (some (b.setWidth 32))))

/-- R228: the peripheral clears no status bit and writes nothing of the driver, the masks, the requests or the
sequencers. -/
def Obligations.PeripheralTouchesOnlyItsSide : Prop :=
  ∀ (x : Instr) (s t : State) (j : InstId), x.agent = .peripheral → exec x s = .next t →
    t.isr = s.isr ∧ t.pass = s.pass ∧ (t.uart j).im = (s.uart j).im ∧ (t.uart j).driver = (s.uart j).driver ∧
      (t.uart j).dispReq = (s.uart j).dispReq ∧ (t.uart j).rtr = (s.uart j).rtr ∧
      (t.uart j).pen = (s.uart j).pen ∧
      ∀ k, (s.uart j).ris.getLsbD k = true → (t.uart j).ris.getLsbD k = true

/-- R220: while `PEN[i] = 0` no peripheral word changes anything; `PEN[i]` is 0 at power-on, set only by a successful
`INIT i`, cleared only by `DEINIT i`. -/
def Obligations.DisabledPeripheralIsInert : Prop :=
  (∀ (x : Instr) (s t : State), x.agent = .peripheral → x.inst.toNat < s.params.numInst →
    (s.uart x.inst).pen = false → exec x s = .next t → t = { s with reply := t.reply }) ∧
  (∀ (p : Params) (i : InstId), ((State.powerOn p).uart i).pen = false) ∧
  ∀ (x : Instr) (s t : State) (j : InstId), exec x s = .next t → (t.uart j).pen ≠ (s.uart j).pen →
    ((t.uart j).pen = true ∧ t.reply = .ok (some 0) ∧ ∃ r f l, x = .init j r f l) ∨
      ((t.uart j).pen = false ∧ (x = .deinit j))

/-! ## Rules of the whole machine -/

/-- R26: a status bit is set only by a peripheral event of its instance, and cleared only by `INTCLR`, `I7B`, `R4` or
`T2`; in particular no read clears one and neither `INIT` nor `DEINIT` changes one. -/
def Obligations.StatusBitsAreLatches : Prop :=
  (∀ (p : Params) (i : InstId), ((State.powerOn p).uart i).ris = 0) ∧
  ∀ (x : Instr) (s t : State) (j : InstId) (k : Nat), exec x s = .next t →
    ((s.uart j).ris.getLsbD k = false → (t.uart j).ris.getLsbD k = true →
      (k = 0 ∧ ((∃ b, x = .rxarrive j b) ∨ x = .rxlevel j)) ∨ (k = 1 ∧ x = .rxtimeout j) ∨
        (k = 2 ∧ (x = .txshift j ∨ x = .txlevel j)) ∨ (k = 3 ∧ ∃ b, x = .rxarrive j b)) ∧
    ((s.uart j).ris.getLsbD k = true → (t.uart j).ris.getLsbD k = false →
      (∃ m, x = .intclr j m ∧ m.getLsbD k = true) ∨
        (x = .istep j ∧ s.isr.ph = .i7b ∧ s.isr.snap.getLsbD k = true) ∨
        (x = .pstep j ∧ s.pass.ph = .r4 ∧ (k = 0 ∨ k = 1)) ∨ (x = .pstep j ∧ s.pass.ph = .t2 ∧ k = 2))

/-- R27: a mask bit is set only by `INTEN` and `B1`, and cleared only by `INTDIS`, `I7A`, `R1`, `INIT` and `DEINIT`. -/
def Obligations.MaskBitsHaveTheirWriters : Prop :=
  (∀ (p : Params) (i : InstId), ((State.powerOn p).uart i).im = 0) ∧
  ∀ (x : Instr) (s t : State) (j : InstId) (k : Nat), exec x s = .next t →
    ((s.uart j).im.getLsbD k = false → (t.uart j).im.getLsbD k = true →
      (∃ m, x = .inten j m ∧ m.getLsbD k = true) ∨ (x = .pstep j ∧ s.pass.ph = .b1)) ∧
    ((s.uart j).im.getLsbD k = true → (t.uart j).im.getLsbD k = false →
      (∃ m, x = .intdis j m ∧ m.getLsbD k = true) ∨
        (x = .istep j ∧ s.isr.ph = .i7a ∧ s.isr.dis.getLsbD k = true) ∨
        (x = .pstep j ∧ s.pass.ph = .r1 ∧ (k = 0 ∨ k = 1)) ∨
        (∃ r f l, x = .init j r f l) ∨ x = .deinit j)

/-- R37: while an instance stays bound, each counter changes only at its one micro-operation, in the one context that
owns it, and by an increment: by 1, or at `R1L` by the number of bytes that leave `AUX`. -/
def Obligations.CountersHaveOneWriterEach : Prop :=
  ∀ (x : Instr) (s t : State) (j : InstId) (d e : Driver), exec x s = .next t →
    (s.uart j).driver = some d → (t.uart j).driver = some e →
    (e.stats.ints ≠ d.stats.ints → x = .istep j ∧ s.isr.ph = .i2 ∧ e.stats.ints = d.stats.ints + 1) ∧
    (e.stats.rxOverflows ≠ d.stats.rxOverflows →
      x = .istep j ∧ s.isr.ph = .i3 ∧ e.stats.rxOverflows = d.stats.rxOverflows + 1) ∧
    (e.stats.rxInts ≠ d.stats.rxInts → x = .istep j ∧ s.isr.ph = .i4 ∧ e.stats.rxInts = d.stats.rxInts + 1) ∧
    (e.stats.txInts ≠ d.stats.txInts → x = .istep j ∧ s.isr.ph = .i5 ∧ e.stats.txInts = d.stats.txInts + 1) ∧
    (e.stats.rxBytes ≠ d.stats.rxBytes → x = .pstep j ∧
      ((s.pass.ph = .r1l ∧ e.stats.rxBytes = d.stats.rxBytes + BitVec.ofNat 32 (d.aux.used - e.aux.used)) ∨
        (s.pass.ph = .r2 ∧ e.stats.rxBytes = d.stats.rxBytes + 1))) ∧
    (e.stats.rxLingerConts ≠ d.stats.rxLingerConts →
      x = .pstep j ∧ s.pass.ph = .r3 ∧ e.stats.rxLingerConts = d.stats.rxLingerConts + 1) ∧
    (e.stats.txBytes ≠ d.stats.txBytes → x = .pstep j ∧ s.pass.ph = .t1 ∧ e.stats.txBytes = d.stats.txBytes + 1)

/-- R178: on every word but `RXGET`, and while the instance stays bound, `rx_bytes` grows by exactly the bytes `RXB`
gained. -/
def Obligations.RxBytesCountsBytesIntoMainBuffer : Prop :=
  ∀ (x : Instr) (s t : State) (j : InstId) (d e : Driver), s.Inv → exec x s = .next t → x ≠ .rxget j →
    (s.uart j).driver = some d → (t.uart j).driver = some e →
    d.rxb.used ≤ e.rxb.used ∧ e.stats.rxBytes = d.stats.rxBytes + BitVec.ofNat 32 (e.rxb.used - d.rxb.used)

/-- R248: a word touches no instance but its own, nor the configuration, nor what is still on the port. -/
def Obligations.InstancesAreIsolated : Prop :=
  ∀ (x : Instr) (s t : State) (j : InstId), exec x s = .next t → j ≠ x.inst →
    t.uart j = s.uart j ∧ t.params = s.params ∧ t.port = s.port

/-- R45, R229: no word duplicates or loses a received byte. Words other than `RXARRIVE`, `RDBYTE`, `RXGET` and
`DEINIT` keep the bytes held; `RXARRIVE` adds its byte at the end, or leaves them (discarded or lost); `RDBYTE` and
`RXGET` take out exactly the byte they return; `DEINIT` leaves only the FIFO. -/
def Obligations.ReceivedBytesAreConserved : Prop :=
  ∀ (x : Instr) (s t : State) (j : InstId), s.Inv → exec x s = .next t →
    ((∀ b, x ≠ .rxarrive j b) → x ≠ .rdbyte j → x ≠ .rxget j → x ≠ .deinit j →
      (t.uart j).received.Perm (s.uart j).received) ∧
    (∀ b, x = .rxarrive j b →
      ((t.uart j).received = (s.uart j).received ++ [b] ∧ (t.uart j).rxLost = (s.uart j).rxLost) ∨
      ((t.uart j).received = (s.uart j).received ∧ (s.uart j).pen = false ∧ (t.uart j).rxLost = (s.uart j).rxLost) ∨
      ((t.uart j).received = (s.uart j).received ∧ (s.uart j).pen = true ∧
        (t.uart j).rxLost = (s.uart j).rxLost + 1) ∨ t.reply = .fault .noInstance) ∧
    (x = .rdbyte j → ∀ v, t.reply = .ok (some v) →
      ∃ b : Byte, v = b.setWidth 32 ∧ (b :: (t.uart j).received).Perm (s.uart j).received) ∧
    (x = .rxget j → ∀ v, t.reply = .ok (some v) → v ≠ 0 →
      ∃ b : Byte, v = 0x100 ||| b.setWidth 32 ∧ (s.uart j).received = b :: (t.uart j).received) ∧
    (x = .deinit j → t.reply = .ok none → (t.uart j).received = (s.uart j).rxFifo)

/-- R70 and R272, one word at a time. No handler word and no pass step changes the ORDER of the bytes held, except a
move of `R2` made past bytes in `AUX`. That move is never due while the drain is ordered (`State.drainOrdered`), and no
word undoes that but an `I4L` move on the pass's own instance at `R2` or `R3`. -/
def Obligations.StreamOrderIsKept : Prop :=
  (∀ (x : Instr) (s t : State) (j : InstId), s.Inv → exec x s = .next t →
    x.agent = .interrupt ∨ x.agent = .dispatch →
    (x = .pstep s.pass.inst → s.isr.ph = .idle → s.pass.ph = .r2 → ∀ d, (s.uart s.pass.inst).driver = some d →
      (s.uart s.pass.inst).rxFifo ≠ [] → 0 < d.rxb.avail → d.aux.used = 0) →
    (t.uart j).received = (s.uart j).received) ∧
  (∀ s : State, s.pass.ph = .idle ∨ s.pass.ph = .r1 ∨ s.pass.ph = .r1l → s.drainOrdered) ∧
  (∀ (s : State) (d : Driver), s.drainOrdered → s.pass.ph = .r2 → (s.uart s.pass.inst).driver = some d →
    0 < d.rxb.avail → d.aux.used = 0) ∧
  ∀ (x : Instr) (s t : State), s.Inv → s.drainOrdered → exec x s = .next t →
    (x = .istep s.pass.inst → s.isr.ph = .i4l → s.isr.inst = s.pass.inst → s.pass.ph = .r2 ∨ s.pass.ph = .r3 →
      ∀ d, (s.uart s.pass.inst).driver = some d → (s.uart s.pass.inst).rxFifo = [] ∨ d.aux.avail = 0) →
    t.drainOrdered

/-- R272, C1: the hazard is real. The words of P6 in TC1, from power-on: a pass comes to `R1` with `AUX` empty, leaves
the receive interrupts unmasked, and after one byte the handler takes the next two into `AUX`; the `PSTEP` then moves the
fourth past them, in a state that meets the invariant, and in the end `RXGET` returns 41, 44, 42, 43. -/
def Obligations.OrderingHazardExists : Prop :=
  ∃ boot s₁ s₂ s₃ s₄ t₁ t₂ t₃ t₄ : State,
    runBoot 0 { State.powerOn Params.tc1 with allocOk := true } = .next boot ∧
    execAll [.rxarrive 0 0x41, .dispatch 0, .pstep 0] boot = .next s₁ ∧
    s₁.pass.ph = .r1 ∧ (s₁.uart 0).driver.any (fun d => d.aux.used = 0) ∧ (s₁.uart 0).received = [0x41] ∧
    execAll ([.pstep 0, .pstep 0, .rxarrive 0 0x42, .rxarrive 0 0x43] ++ List.replicate 11 (.istep 0) ++
      [.rxarrive 0 0x44]) s₁ = .next s₂ ∧
    s₂.Inv ∧ s₂.isr.ph = .idle ∧ s₂.pass.ph = .r2 ∧ (s₂.uart 0).received = [0x41, 0x42, 0x43, 0x44] ∧
    exec (.pstep 0) s₂ = .next s₃ ∧ s₃.reply = .ok none ∧ (s₃.uart 0).received = [0x41, 0x44, 0x42, 0x43] ∧
    execAll (List.replicate 16 (.pstep 0)) s₃ = .next s₄ ∧
    s₄.pass.ph = .idle ∧ s₄.fault = 0 ∧ (s₄.uart 0).rxLost = 0 ∧ (s₄.uart 0).rxFifo = [] ∧
    (s₄.uart 0).driver.any (fun d =>
      d.rxb.contents = [0x41, 0x44, 0x42, 0x43] ∧ d.aux.used = 0 ∧ d.stats.rxBytes = 4) ∧
    exec (.rxget 0) s₄ = .next t₁ ∧ t₁.reply = .ok (some 0x141) ∧
    exec (.rxget 0) t₁ = .next t₂ ∧ t₂.reply = .ok (some 0x144) ∧
    exec (.rxget 0) t₂ = .next t₃ ∧ t₃.reply = .ok (some 0x142) ∧
    exec (.rxget 0) t₃ = .next t₄ ∧ t₄.reply = .ok (some 0x143)
end

