-- ==== Sys2Proof/Laws/State.lean ====
section
/-! SUPPORT. One lemma per field per update of the state, and reading an instance back after writing one.
No later proof unfolds a record update. -/

namespace Sys2Proof.Machine

variable (s : State)

@[simp] theorem State.setUart_params (i : InstId) (u : Uart) : (s.setUart i u).params = s.params := rfl
@[simp] theorem State.setUart_fault (i : InstId) (u : Uart) : (s.setUart i u).fault = s.fault := rfl
@[simp] theorem State.setUart_isr (i : InstId) (u : Uart) : (s.setUart i u).isr = s.isr := rfl
@[simp] theorem State.setUart_pass (i : InstId) (u : Uart) : (s.setUart i u).pass = s.pass := rfl
@[simp] theorem State.setUart_port (i : InstId) (u : Uart) : (s.setUart i u).port = s.port := rfl
@[simp] theorem State.setUart_allocOk (i : InstId) (u : Uart) : (s.setUart i u).allocOk = s.allocOk := rfl
@[simp] theorem State.setUart_reply (i : InstId) (u : Uart) : (s.setUart i u).reply = s.reply := rfl
@[simp] theorem State.setUart_draws (i : InstId) (u : Uart) : (s.setUart i u).draws = s.draws := rfl

@[simp] theorem State.setDriver_params (i : InstId) (d : Driver) : (s.setDriver i d).params = s.params := rfl
@[simp] theorem State.setDriver_fault (i : InstId) (d : Driver) : (s.setDriver i d).fault = s.fault := rfl
@[simp] theorem State.setDriver_isr (i : InstId) (d : Driver) : (s.setDriver i d).isr = s.isr := rfl
@[simp] theorem State.setDriver_pass (i : InstId) (d : Driver) : (s.setDriver i d).pass = s.pass := rfl
@[simp] theorem State.setDriver_port (i : InstId) (d : Driver) : (s.setDriver i d).port = s.port := rfl
@[simp] theorem State.setDriver_allocOk (i : InstId) (d : Driver) : (s.setDriver i d).allocOk = s.allocOk := rfl
@[simp] theorem State.setDriver_reply (i : InstId) (d : Driver) : (s.setDriver i d).reply = s.reply := rfl
@[simp] theorem State.setDriver_draws (i : InstId) (d : Driver) : (s.setDriver i d).draws = s.draws := rfl

@[simp] theorem State.setIsr_params (x : Isr) : (s.setIsr x).params = s.params := rfl
@[simp] theorem State.setIsr_fault (x : Isr) : (s.setIsr x).fault = s.fault := rfl
@[simp] theorem State.setIsr_isr (x : Isr) : (s.setIsr x).isr = x := rfl
@[simp] theorem State.setIsr_pass (x : Isr) : (s.setIsr x).pass = s.pass := rfl
@[simp] theorem State.setIsr_port (x : Isr) : (s.setIsr x).port = s.port := rfl
@[simp] theorem State.setIsr_allocOk (x : Isr) : (s.setIsr x).allocOk = s.allocOk := rfl
@[simp] theorem State.setIsr_reply (x : Isr) : (s.setIsr x).reply = s.reply := rfl
@[simp] theorem State.setIsr_draws (x : Isr) : (s.setIsr x).draws = s.draws := rfl

@[simp] theorem State.setPass_params (x : Pass) : (s.setPass x).params = s.params := rfl
@[simp] theorem State.setPass_fault (x : Pass) : (s.setPass x).fault = s.fault := rfl
@[simp] theorem State.setPass_isr (x : Pass) : (s.setPass x).isr = s.isr := rfl
@[simp] theorem State.setPass_pass (x : Pass) : (s.setPass x).pass = x := rfl
@[simp] theorem State.setPass_port (x : Pass) : (s.setPass x).port = s.port := rfl
@[simp] theorem State.setPass_allocOk (x : Pass) : (s.setPass x).allocOk = s.allocOk := rfl
@[simp] theorem State.setPass_reply (x : Pass) : (s.setPass x).reply = s.reply := rfl
@[simp] theorem State.setPass_draws (x : Pass) : (s.setPass x).draws = s.draws := rfl

@[simp] theorem State.drew_params (n : Nat) : (s.drew n).params = s.params := rfl
@[simp] theorem State.drew_fault (n : Nat) : (s.drew n).fault = s.fault := rfl
@[simp] theorem State.drew_isr (n : Nat) : (s.drew n).isr = s.isr := rfl
@[simp] theorem State.drew_pass (n : Nat) : (s.drew n).pass = s.pass := rfl
@[simp] theorem State.drew_port (n : Nat) : (s.drew n).port = s.port := rfl
@[simp] theorem State.drew_allocOk (n : Nat) : (s.drew n).allocOk = s.allocOk := rfl
@[simp] theorem State.drew_reply (n : Nat) : (s.drew n).reply = s.reply := rfl
@[simp] theorem State.drew_draws (n : Nat) : (s.drew n).draws = s.draws + n := rfl

@[simp] theorem State.setReply_params (r : Reply) : (s.setReply r).params = s.params := rfl
@[simp] theorem State.setReply_fault (r : Reply) : (s.setReply r).fault = s.fault := rfl
@[simp] theorem State.setReply_isr (r : Reply) : (s.setReply r).isr = s.isr := rfl
@[simp] theorem State.setReply_pass (r : Reply) : (s.setReply r).pass = s.pass := rfl
@[simp] theorem State.setReply_port (r : Reply) : (s.setReply r).port = s.port := rfl
@[simp] theorem State.setReply_allocOk (r : Reply) : (s.setReply r).allocOk = s.allocOk := rfl
@[simp] theorem State.setReply_reply (r : Reply) : (s.setReply r).reply = r := rfl
@[simp] theorem State.setReply_draws (r : Reply) : (s.setReply r).draws = s.draws := rfl

@[simp] theorem State.takeLock_params (i : InstId) (d : Driver) : (s.takeLock i d).params = s.params := rfl
@[simp] theorem State.takeLock_fault (i : InstId) (d : Driver) : (s.takeLock i d).fault = s.fault := rfl
@[simp] theorem State.takeLock_isr (i : InstId) (d : Driver) : (s.takeLock i d).isr = s.isr := rfl
@[simp] theorem State.takeLock_pass (i : InstId) (d : Driver) : (s.takeLock i d).pass = { ph := .r1, inst := i, recd := false, lingerLeft := d.cfg.lingerUs.toNat * s.params.itersPerUs } := rfl
@[simp] theorem State.takeLock_port (i : InstId) (d : Driver) : (s.takeLock i d).port = s.port := rfl
@[simp] theorem State.takeLock_allocOk (i : InstId) (d : Driver) : (s.takeLock i d).allocOk = s.allocOk := rfl
@[simp] theorem State.takeLock_reply (i : InstId) (d : Driver) : (s.takeLock i d).reply = s.reply := rfl
@[simp] theorem State.takeLock_draws (i : InstId) (d : Driver) : (s.takeLock i d).draws = s.draws := rfl

@[simp] theorem State.freeLock_params : s.freeLock.params = s.params := rfl
@[simp] theorem State.freeLock_fault : s.freeLock.fault = s.fault := rfl
@[simp] theorem State.freeLock_isr : s.freeLock.isr = s.isr := rfl
@[simp] theorem State.freeLock_pass : s.freeLock.pass = idlePass s.draws := rfl
@[simp] theorem State.freeLock_port : s.freeLock.port = s.port := rfl
@[simp] theorem State.freeLock_allocOk : s.freeLock.allocOk = s.allocOk := rfl
@[simp] theorem State.freeLock_reply : s.freeLock.reply = s.reply := rfl
@[simp] theorem State.freeLock_draws : s.freeLock.draws = s.draws + 1 := rfl

@[simp] theorem State.setIsr_uart (x : Isr) (j : InstId) : (s.setIsr x).uart j = s.uart j := rfl
@[simp] theorem State.setPass_uart (x : Pass) (j : InstId) : (s.setPass x).uart j = s.uart j := rfl
@[simp] theorem State.drew_uart (n : Nat) (j : InstId) : (s.drew n).uart j = s.uart j := rfl
@[simp] theorem State.setReply_uart (r : Reply) (j : InstId) : (s.setReply r).uart j = s.uart j := rfl
@[simp] theorem State.takeLock_uart (i : InstId) (d : Driver) (j : InstId) : (s.takeLock i d).uart j = s.uart j := rfl
@[simp] theorem State.freeLock_uart (j : InstId) : s.freeLock.uart j = s.uart j := rfl

@[simp] theorem State.uart_setUart_self (i : InstId) (u : Uart) : (s.setUart i u).uart i = u := by
  simp [State.uart, State.setUart]

@[simp] theorem State.uart_setUart_ne {i j : InstId} (u : Uart) (h : j ≠ i) : (s.setUart i u).uart j = s.uart j := by
  have : i.toNat ≠ j.toNat := fun e => h (BitVec.eq_of_toNat_eq e.symm)
  simp [State.uart, State.setUart, this]

theorem State.uart_setUart (i j : InstId) (u : Uart) :
    (s.setUart i u).uart j = if j = i then u else s.uart j := by
  by_cases h : j = i
  · subst h; simp
  · simp [h]

@[simp] theorem State.uart_setDriver_self (i : InstId) (d : Driver) :
    (s.setDriver i d).uart i = { s.uart i with driver := some d } := by
  simp [State.setDriver]

@[simp] theorem State.uart_setDriver_ne {i j : InstId} (d : Driver) (h : j ≠ i) :
    (s.setDriver i d).uart j = s.uart j := by
  simp [State.setDriver, h]

/-- Two states are equal when their fields are, the instances read one by one. -/
theorem State.ext_uart {s t : State} (hu : ∀ i, t.uart i = s.uart i) (hp : t.params = s.params)
    (hf : t.fault = s.fault) (hi : t.isr = s.isr) (hq : t.pass = s.pass) (ho : t.port = s.port)
    (ha : t.allocOk = s.allocOk) (hr : t.reply = s.reply) (hd : t.draws = s.draws) : t = s := by
  have hv : t.uarts = s.uarts := by
    apply Vector.ext
    intro k hk
    have := hu (BitVec.ofNat 2 k)
    have hm : k % 4 = k := Nat.mod_eq_of_lt hk
    simpa [State.uart, BitVec.toNat_ofNat, hm] using this
  cases s; cases t; simp_all

@[simp] theorem State.powerOn_uart (p : Params) (i : InstId) : (State.powerOn p).uart i = Uart.powerOn := by
  have h : ∀ j : InstId, #v[Uart.powerOn, Uart.powerOn, Uart.powerOn, Uart.powerOn][j.toNat]'j.isLt = Uart.powerOn := by
    decide
  exact h i

end Sys2Proof.Machine
end

