-- ==== Sys2Proof/Laws/Ops.lean ====
section
/-! SUPPORT. For each shared operation of Machine/Ops.lean, what it does when its check passes and when it does
not, and once everything it can do: if it answers `next t`, then one of these cases holds. -/

namespace Sys2Proof.Machine

variable {s t : State} {i : InstId} {k : Result}

/-! ## Outcomes -/

theorem State.ok_next (h : s.ok = .next t) : t = s.setReply (.ok none) := by
  simpa [State.ok] using h.symm

theorem State.okWith_next {v : Word} (h : s.okWith v = .next t) : t = s.setReply (.ok (some v)) := by
  simpa [State.okWith] using h.symm

theorem State.hold_next (h : s.hold = .next t) : t = s.setReply .hold := by
  simpa [State.hold] using h.symm

theorem State.raise_next {c : FaultCode} (h : s.raise c = .next t) :
    t = { s with fault := if s.fault = 0 then c.code else s.fault, reply := .fault c } := by
  simpa [State.raise, State.setReply] using h.symm

/-- A fault's code is never 0, so `FAULT ≠ 0` after a fault (60_exceptions.md R231). -/
theorem FaultCode.code_ne_zero (c : FaultCode) : c.code ≠ 0 := by cases c <;> decide

theorem FaultCode.code_le (c : FaultCode) : c.code.toNat ≤ 7 := by cases c <;> decide

/-! ## Checks -/

theorem State.inTask_idle (h : s.isr.ph = .idle) : s.inTask k = k := by simp [State.inTask, h]

theorem State.inTask_busy (h : s.isr.ph ≠ .idle) : s.inTask k = s.hold := by simp [State.inTask, h]

theorem State.inTask_next (h : s.inTask k = .next t) :
    (s.isr.ph ≠ .idle ∧ t = s.setReply .hold) ∨ (s.isr.ph = .idle ∧ k = .next t) := by
  by_cases hp : s.isr.ph = .idle
  · exact .inr ⟨hp, by rwa [State.inTask_idle hp] at h⟩
  · exact .inl ⟨hp, State.hold_next (by rwa [State.inTask_busy hp] at h)⟩

theorem State.hasInst_iff : s.hasInst i = true ↔ i.toNat < s.params.numInst := by simp [State.hasInst]

theorem State.onInst_has (h : s.hasInst i = true) : s.onInst i k = k := by simp [State.onInst, h]

theorem State.onInst_lacks (h : s.hasInst i = false) : s.onInst i k = s.raise .noInstance := by
  simp [State.onInst, h]

theorem State.onInst_next (h : s.onInst i k = .next t) :
    (s.hasInst i = false ∧ s.raise .noInstance = .next t) ∨ (s.hasInst i = true ∧ k = .next t) := by
  cases hi : s.hasInst i
  · exact .inl ⟨rfl, by rwa [State.onInst_lacks hi] at h⟩
  · exact .inr ⟨rfl, by rwa [State.onInst_has hi] at h⟩

theorem State.onBound_some {d : Driver} {f : Driver → Result} (h : (s.uart i).driver = some d) :
    s.onBound i f = f d := by simp [State.onBound, h]

theorem State.onBound_none {f : Driver → Result} (h : (s.uart i).driver = none) :
    s.onBound i f = s.raise .noInstance := by simp [State.onBound, h]

theorem State.onBound_next {f : Driver → Result} (h : s.onBound i f = .next t) :
    ((s.uart i).driver = none ∧ s.raise .noInstance = .next t) ∨
      ∃ d, (s.uart i).driver = some d ∧ f d = .next t := by
  cases hd : (s.uart i).driver with
  | none => exact .inl ⟨rfl, by rwa [State.onBound_none hd] at h⟩
  | some d => exact .inr ⟨d, rfl, by rwa [State.onBound_some hd] at h⟩

theorem State.withLock_free (h : s.pass.ph = .idle) : s.withLock k = k := by simp [State.withLock, h]

theorem State.withLock_taken (h : s.pass.ph ≠ .idle) : s.withLock k = s.hold := by simp [State.withLock, h]

theorem State.withLock_next (h : s.withLock k = .next t) :
    (s.pass.ph ≠ .idle ∧ t = s.setReply .hold) ∨ (s.pass.ph = .idle ∧ k = .next t) := by
  by_cases hp : s.pass.ph = .idle
  · exact .inr ⟨hp, by rwa [State.withLock_free hp] at h⟩
  · exact .inl ⟨hp, State.hold_next (by rwa [State.withLock_taken hp] at h)⟩

theorem State.needDriver_some {d : Driver} {f : Driver → Result} (h : (s.uart i).driver = some d) :
    s.needDriver i f = f d := by simp [State.needDriver, h]

theorem State.needDriver_next {f : Driver → Result} (h : s.needDriver i f = .next t) :
    ∃ d, (s.uart i).driver = some d ∧ f d = .next t := by
  cases hd : (s.uart i).driver with
  | none => simp [State.needDriver, hd] at h
  | some d => exact ⟨d, rfl, by rwa [State.needDriver_some hd] at h⟩

theorem State.bound_iff : s.bound i = true ↔ ∃ d, (s.uart i).driver = some d := by
  simp [State.bound, Option.isSome_iff_exists]

/-! ## Port, interrupt entry and return, lock -/

theorem State.takeWord_cons {p : PortWord} {rest : List PortWord} (h : s.port = p :: rest) :
    s.takeWord = some (p.word, { s with port := rest, allocOk := p.allocOk }) := by
  simp [State.takeWord, h]

theorem State.takeWord_nil (h : s.port = []) : s.takeWord = none := by simp [State.takeWord, h]

theorem State.enterHandler_bound {d : Driver} (h : (s.uart i).driver = some d) :
    s.enterHandler i =
      (s.setIsr { ph := .i2, inst := i, snap := (s.uart i).mis, dis := 0, fired := false }).ok := by
  simp [State.enterHandler, h]

theorem State.enterHandler_unbound (h : (s.uart i).driver = none) : s.enterHandler i = s.ok := by
  simp [State.enterHandler, h]

/-- Entry to the handler either does nothing (unbound) or writes the interrupt sequencer, no more. -/
theorem State.enterHandler_next (h : s.enterHandler i = .next t) :
    (s.bound i = false ∧ t = s.setReply (.ok none)) ∨
      (s.bound i = true ∧
        t = (s.setIsr { ph := .i2, inst := i, snap := (s.uart i).mis, dis := 0, fired := false }).setReply
          (.ok none)) := by
  cases hd : (s.uart i).driver with
  | none => exact .inl ⟨by simp [State.bound, hd], State.ok_next (by rwa [State.enterHandler_unbound hd] at h)⟩
  | some d => exact .inr ⟨by simp [State.bound, hd], State.ok_next (by rwa [State.enterHandler_bound hd] at h)⟩

@[simp] theorem idleIsr_ph (n : Nat) : (idleIsr n).ph = .idle := rfl

@[simp] theorem idlePass_ph (n : Nat) : (idlePass n).ph = .idle := rfl

/-- Return from the handler writes the status of its instance, ends interrupt context, and no more. -/
theorem State.leaveHandler_next (h : s.leaveHandler i = .next t) :
    t.uart i = { s.uart i with ris := clearBits (s.uart i).ris s.isr.snap } ∧
      (∀ j, j ≠ i → t.uart j = s.uart j) ∧ t.isr = idleIsr s.draws ∧ t.pass = s.pass ∧ t.fault = s.fault ∧
      t.params = s.params ∧ t.port = s.port ∧ t.allocOk = s.allocOk ∧ t.reply = .ok none ∧
      t.draws = s.draws + 2 := by
  have := State.ok_next h
  subst this
  refine ⟨by simp, fun j hj => by simp [hj], rfl, rfl, rfl, rfl, rfl, rfl, rfl, rfl⟩

/-! ## Masks (00_scope.md R10) -/

theorem setBits_getLsbD (x m : Mask) (k : Nat) : (setBits x m).getLsbD k = (x.getLsbD k || m.getLsbD k) := by
  simp [setBits]

theorem clearBits_getLsbD (x m : Mask) {k : Nat} (hk : k < 4) :
    (clearBits x m).getLsbD k = (x.getLsbD k && !m.getLsbD k) := by
  simp [clearBits, hk]

theorem anyBits_iff (x m : Mask) : anyBits x m = true ↔ x &&& m ≠ 0 := by simp [anyBits]

theorem rearmMask_eq : ∀ rxe room held, rearmMask rxe room held =
    (if rxe && room then (if held then 0b1111 else 0b1011) else (if held then 0b1100 else 0b1000)) := by
  decide

end Sys2Proof.Machine
end

