-- ==== Sys2Proof/Laws/PerInstr.lean ====
section
/-! SUPPORT. A fact about every operation as syntax, one lemma per constructor: its word carries the fields of
30_encoding.md R81 where R81 puts them, and the operand field of a format with reserved bits has them 0 (R82). -/

namespace Sys2Proof.Laws

theorem opcOf_append (c : BitVec 6) (i : InstId) (o : BitVec 24) : opcOf (c ++ i ++ o) = c := by
  apply BitVec.eq_of_getLsbD_eq
  intro k hk
  simp only [opcOf, BitVec.getLsbD_extractLsb', BitVec.getLsbD_append]
  simp [hk, show ¬ 26 + k < 24 by omega, show 26 + k - 24 = k + 2 by omega]

theorem instOf_append (c : BitVec 6) (i : InstId) (o : BitVec 24) : instOf (c ++ i ++ o) = i := by
  apply BitVec.eq_of_getLsbD_eq
  intro k hk
  simp only [instOf, BitVec.getLsbD_extractLsb', BitVec.getLsbD_append]
  simp [hk, show ¬ 24 + k < 24 by omega]

theorem operandOf_append (c : BitVec 6) (i : InstId) (o : BitVec 24) : operandOf (c ++ i ++ o) = o := by
  apply BitVec.eq_of_getLsbD_eq
  intro k hk
  simp only [operandOf, BitVec.getLsbD_extractLsb', BitVec.getLsbD_append]
  simp [hk]

/-- The word of `x` carries `x`'s opcode, instance and operand in the places of R81. -/
def CarriesFields.Statement (x : Instr) : Prop :=
  opcOf (encode x) = x.opc ∧ instOf (encode x) = x.inst ∧ operandOf (encode x) = x.operand

/-- The fields of an encoding are the fields it was built from. -/
theorem fields_of_encode (x : Instr) : CarriesFields.Statement x :=
  ⟨opcOf_append _ _ _, instOf_append _ _ _, operandOf_append _ _ _⟩

theorem CarriesFields.bavail (i : InstId) : CarriesFields.Statement (.bavail i) := fields_of_encode _
theorem CarriesFields.rdbyte (i : InstId) : CarriesFields.Statement (.rdbyte i) := fields_of_encode _
theorem CarriesFields.savail (i : InstId) : CarriesFields.Statement (.savail i) := fields_of_encode _
theorem CarriesFields.wrbyte (i : InstId) (b : Byte) : CarriesFields.Statement (.wrbyte i b) := fields_of_encode _
theorem CarriesFields.intstat (i : InstId) (f : Bool) : CarriesFields.Statement (.intstat i f) := fields_of_encode _
theorem CarriesFields.inten (i : InstId) (m : Mask) : CarriesFields.Statement (.inten i m) := fields_of_encode _
theorem CarriesFields.intdis (i : InstId) (m : Mask) : CarriesFields.Statement (.intdis i m) := fields_of_encode _
theorem CarriesFields.intclr (i : InstId) (m : Mask) : CarriesFields.Statement (.intclr i m) := fields_of_encode _
theorem CarriesFields.busy (i : InstId) : CarriesFields.Statement (.busy i) := fields_of_encode _
theorem CarriesFields.txput (i : InstId) (b : Byte) : CarriesFields.Statement (.txput i b) := fields_of_encode _
theorem CarriesFields.rxget (i : InstId) : CarriesFields.Statement (.rxget i) := fields_of_encode _
theorem CarriesFields.irq (i : InstId) : CarriesFields.Statement (.irq i) := fields_of_encode _
theorem CarriesFields.istep (i : InstId) : CarriesFields.Statement (.istep i) := fields_of_encode _
theorem CarriesFields.dispatch (i : InstId) : CarriesFields.Statement (.dispatch i) := fields_of_encode _
theorem CarriesFields.pstep (i : InstId) : CarriesFields.Statement (.pstep i) := fields_of_encode _
theorem CarriesFields.init (i : InstId) (r : Bool) (x : Bool) (l : BitVec 22) : CarriesFields.Statement (.init i r x l) := fields_of_encode _
theorem CarriesFields.deinit (i : InstId) : CarriesFields.Statement (.deinit i) := fields_of_encode _
theorem CarriesFields.setrxen (i : InstId) (f : Bool) : CarriesFields.Statement (.setrxen i f) := fields_of_encode _
theorem CarriesFields.flush (i : InstId) : CarriesFields.Statement (.flush i) := fields_of_encode _
theorem CarriesFields.rdcsr (i : InstId) (n : Byte) : CarriesFields.Statement (.rdcsr i n) := fields_of_encode _
theorem CarriesFields.rxarrive (i : InstId) (b : Byte) : CarriesFields.Statement (.rxarrive i b) := fields_of_encode _
theorem CarriesFields.rxtimeout (i : InstId) : CarriesFields.Statement (.rxtimeout i) := fields_of_encode _
theorem CarriesFields.rxlevel (i : InstId) : CarriesFields.Statement (.rxlevel i) := fields_of_encode _
theorem CarriesFields.txshift (i : InstId) : CarriesFields.Statement (.txshift i) := fields_of_encode _
theorem CarriesFields.txlevel (i : InstId) : CarriesFields.Statement (.txlevel i) := fields_of_encode _

end Sys2Proof.Laws
end

