-- ==== Sys2Proof/Laws/Ring.lean ====
section
/-! SUPPORT. What each ring primitive does to a well-formed buffer (41_ring_buffer.md R120 to R125), in terms of
its contents: append adds at the tail, a view is a prefix, consume drops a prefix. -/

namespace Sys2Proof.Machine

variable {cap : Nat} {b : Ring}

theorem Ring.contents_length (b : Ring) : b.contents.length = b.used := by
  simp [Ring.contents]

theorem Ring.Wf.cap_eq (h : b.Wf cap) : b.cap = cap := h.1

theorem Ring.Wf.cap_pos (h : b.Wf cap) : 0 < cap := Nat.lt_of_le_of_lt (Nat.zero_le _) h.2.1

theorem Ring.Wf.used_add_avail (h : b.Wf cap) : b.used + b.avail = cap := by
  have := h.2.2; have := h.1
  simp only [Ring.avail, Ring.cap]; omega

theorem Ring.contents_getElem? (b : Ring) {k : Nat} (hk : k < b.used) :
    b.contents[k]? = some (b.store.getD (b.slotOf k) 0) := by
  simp [Ring.contents, hk]

/-- Two well-formed buffers with the same length and the same byte at each place hold the same contents. -/
theorem Ring.contents_ext {l : List Byte} (hl : l.length = b.used)
    (h : ∀ k, k < b.used → l[k]? = some (b.store.getD (b.slotOf k) 0)) : b.contents = l := by
  apply List.ext_getElem?
  intro k
  by_cases hk : k < b.used
  · rw [Ring.contents_getElem? b hk, h k hk]
  · rw [List.getElem?_eq_none (by rw [Ring.contents_length]; omega), List.getElem?_eq_none (by omega)]

/-- `(head + k) mod cap` for a well-formed buffer: at most one wrap. -/
theorem Ring.Wf.slotOf_eq (h : b.Wf cap) {k : Nat} (hk : k ≤ cap) :
    b.slotOf k = if b.head + k < cap then b.head + k else b.head + k - cap := by
  have h1 := h.1; have h2 := h.2.1
  simp only [Ring.slotOf, Ring.cap, h1]
  split
  · next hlt => exact Nat.mod_eq_of_lt hlt
  · next hge =>
    rw [Nat.mod_eq_sub_mod (by omega)]
    exact Nat.mod_eq_of_lt (by omega)

theorem Ring.Wf.slotOf_lt (h : b.Wf cap) (k : Nat) : b.slotOf k < b.store.length := by
  have := h.cap_pos; have h1 := h.1
  simp only [Ring.slotOf, Ring.cap]
  exact Nat.mod_lt _ (by omega)

/-! ## append (R121) -/

theorem Ring.append_full (h : b.used = b.cap) (v : Byte) : b.append v = (b, 0) := by
  simp [Ring.append, h]

theorem Ring.append_wf (h : b.Wf cap) (v : Byte) : (b.append v).1.Wf cap := by
  have h1 := h.1; have h2 := h.2.1; have h3 := h.2.2
  unfold Ring.append
  split
  · exact h
  · next hu =>
    refine ⟨by simpa [Ring.memWrite] using h1, h2, ?_⟩
    simp only [Ring.cap] at hu
    simp only []; omega

theorem Ring.append_contents (h : b.Wf cap) (hr : b.used < cap) (v : Byte) :
    (b.append v).1.contents = b.contents ++ [v] ∧ (b.append v).2 = 1 := by
  have h1 := h.1; have h2 := h.2.1; have h3 := h.2.2
  have hne : b.used ≠ b.cap := by simp only [Ring.cap]; omega
  simp only [Ring.append, hne, if_false, and_true]
  apply Ring.contents_ext
  · simp [Ring.contents_length]
  intro k hk
  simp only [Ring.memWrite] at hk ⊢
  have hs : ∀ j, (Ring.mk (b.store.set ((b.head + b.used) % b.cap) v) b.head (b.used + 1)).slotOf j = b.slotOf j := by
    intro j; simp [Ring.slotOf, Ring.cap]
  rw [hs]
  have htail : (b.head + b.used) % b.cap = b.slotOf b.used := rfl
  rw [htail]
  by_cases hlast : k = b.used
  · subst hlast
    have hlt := h.slotOf_lt b.used
    rw [List.getElem?_append_right (by rw [Ring.contents_length])]
    simp [Ring.contents_length, List.getD, hlt]
  · have hk' : k < b.used := by omega
    rw [List.getElem?_append_left (by rw [Ring.contents_length]; exact hk'), Ring.contents_getElem? b hk']
    have hd : b.slotOf b.used ≠ b.slotOf k := by
      rw [h.slotOf_eq (by omega), h.slotOf_eq (by omega)]
      split <;> split <;> omega
    simp [List.getD, List.getElem?_set_ne hd]

theorem Ring.append_used (h : b.used ≠ b.cap) (v : Byte) : (b.append v).1.used = b.used + 1 := by
  simp [Ring.append, h]

/-- Everything `append` can do to a well-formed buffer. -/
theorem Ring.append_cases (h : b.Wf cap) (v : Byte) :
    (b.used = cap ∧ b.append v = (b, 0)) ∨
      (b.used < cap ∧ (b.append v).2 = 1 ∧ (b.append v).1.Wf cap ∧ (b.append v).1.used = b.used + 1 ∧
        (b.append v).1.contents = b.contents ++ [v]) := by
  have h1 := h.1; have h3 := h.2.2
  by_cases hu : b.used = cap
  · exact .inl ⟨hu, Ring.append_full (by simp only [Ring.cap]; omega) v⟩
  · have hlt : b.used < cap := by omega
    have hc := Ring.append_contents h hlt v
    exact .inr ⟨hlt, hc.2, Ring.append_wf h v, Ring.append_used (by simp only [Ring.cap]; omega) v, hc.1⟩

/-! ## append_n (R122) -/

/-- Bulk append takes bytes in order until the buffer is full: `min(k, avail)` of them. -/
theorem Ring.appendN_contents {bs : List Byte} : ∀ {b : Ring}, b.Wf cap →
    (b.appendN bs).1.Wf cap ∧ (b.appendN bs).2 = min bs.length b.avail ∧
      (b.appendN bs).1.used = b.used + min bs.length b.avail ∧
      (b.appendN bs).1.contents = b.contents ++ bs.take b.avail := by
  induction bs with
  | nil => intro b h; exact ⟨h, by simp [Ring.appendN], by simp [Ring.appendN], by simp [Ring.appendN]⟩
  | cons v vs ih =>
    intro b h
    have hua := h.used_add_avail
    rcases Ring.append_cases h v with ⟨hu, he⟩ | ⟨_, h1, hw, hused, hc⟩
    · have hz : b.avail = 0 := by omega
      have hn : (b.append v).2 = 0 := by rw [he]
      simp only [Ring.appendN, if_pos hn, hz]
      exact ⟨h, by simp, by simp, by simp⟩
    · obtain ⟨i1, i2, i3, i4⟩ := ih hw
      have hua' := hw.used_add_avail
      have hn : ¬ (b.append v).2 = 0 := by omega
      have hav : b.avail = (b.append v).1.avail + 1 := by omega
      simp only [Ring.appendN, if_neg hn, List.length_cons]
      refine ⟨i1, by omega, by omega, ?_⟩
      rw [i4, hc, hav, List.take_succ_cons, List.append_assoc]; rfl

/-! ## getview (R123) -/

theorem Ring.getView_count_le_used (b : Ring) (m : Nat) : (b.getView m).2 ≤ b.used := by
  simp only [Ring.getView]; omega

theorem Ring.getView_count_le_max (b : Ring) (m : Nat) : (b.getView m).2 ≤ m := by
  simp only [Ring.getView]; omega

theorem Ring.getView_count_pos (h : b.Wf cap) {m : Nat} : 0 < (b.getView m).2 ↔ 0 < m ∧ 0 < b.used := by
  have h1 := h.1; have h2 := h.2.1
  simp only [Ring.getView, Ring.cap]; omega

theorem Ring.viewBytes_length (b : Ring) (m : Nat) : (b.viewBytes m).length = (b.getView m).2 := by
  simp only [Ring.viewBytes, Ring.memRead, Ring.getView, Ring.cap, List.length_take, List.length_drop]; omega

/-- The bytes of a view are the oldest bytes of the contents, as many as the view is long. -/
theorem Ring.viewBytes_eq_take (h : b.Wf cap) (m : Nat) : b.viewBytes m = b.contents.take (b.getView m).2 := by
  have h1 := h.1; have h2 := h.2.1
  have hle := Ring.getView_count_le_used b m
  apply List.ext_getElem?
  intro k
  by_cases hk : k < (b.getView m).2
  · have hcap : (b.getView m).2 ≤ b.store.length - b.head := by simp only [Ring.getView, Ring.cap]; omega
    have hlt : b.head + k < cap := by omega
    rw [List.getElem?_take_of_lt hk, Ring.contents_getElem? b (by omega), h.slotOf_eq (by omega), if_pos hlt]
    have hd : (b.getView m).1 = b.head := rfl
    simp only [Ring.viewBytes, Ring.memRead, hd]
    rw [List.getElem?_take_of_lt hk, List.getElem?_drop, List.getD_eq_getElem?_getD,
      List.getElem?_eq_getElem (by omega)]
    rfl
  · rw [List.getElem?_eq_none (by rw [Ring.viewBytes_length]; omega),
      List.getElem?_eq_none (by rw [List.length_take]; omega)]

/-- A view of at most one byte: the oldest byte, or nothing if the buffer is empty. -/
theorem Ring.viewBytes_one (h : b.Wf cap) : b.viewBytes 1 = b.contents.take 1 := by
  rw [Ring.viewBytes_eq_take h]
  by_cases hu : 0 < b.used
  · have : (b.getView 1).2 = 1 := by
      have := (Ring.getView_count_pos h (m := 1)).2 ⟨by omega, hu⟩
      have := Ring.getView_count_le_max b 1; omega
    rw [this]
  · have hz : b.contents = [] := List.eq_nil_of_length_eq_zero (by rw [Ring.contents_length]; omega)
    simp [hz]

/-! ## consume (R124) -/

theorem Ring.consume_wf (h : b.Wf cap) {n : Nat} : (b.consume n).Wf cap := by
  have h1 := h.1; have h2 := h.2.1; have h3 := h.2.2
  refine ⟨h1, ?_, by simp only [Ring.consume]; omega⟩
  simp only [Ring.consume, Ring.cap, h1]
  exact Nat.mod_lt _ h.cap_pos

theorem Ring.consume_contents (h : b.Wf cap) {n : Nat} (hn : n ≤ b.used) :
    (b.consume n).contents = b.contents.drop n ∧ (b.consume n).used = b.used - n := by
  refine ⟨Ring.contents_ext (by simp [Ring.contents_length, Ring.consume]) ?_, rfl⟩
  intro k hk
  have hk' : k < b.used - n := hk
  have h1 := h.1; have h2 := h.2.1; have h3 := h.2.2
  rw [List.getElem?_drop, Ring.contents_getElem? b (by omega)]
  have : (b.consume n).slotOf k = b.slotOf (n + k) := by
    simp only [Ring.slotOf, Ring.consume, Ring.cap, Nat.mod_add_mod, Nat.add_assoc]
  rw [this]
  rfl

/-- A fresh buffer is empty and well formed, whatever its unspecified slots hold (44 R200). -/
theorem Ring.fresh_wf {cap : Nat} (hc : 0 < cap) (draw : Nat) :
    (Ring.fresh cap draw).Wf cap ∧ (Ring.fresh cap draw).contents = [] := by
  simp [Ring.fresh, Ring.Wf, Ring.contents, hc]

end Sys2Proof.Machine
end

