-- ==== Sys2Proof/Tests/Slice0.lean ====
section
/-! SUPPORT. Our own tests. Expected results are the spec's: the words of 95_test_vectors.md V30-1 and V30-2, and the
rows P1 to P7, V40 to V60 named beside each test. `witness_<Obligation>` shows a concrete state and operands that meet
the hypotheses of that statement. -/

namespace Sys2Proof.Tests

open Sys2Proof Sys2Proof.Machine

/-! ## Helpers -/

/-- A buffer of capacity `cap` with `bs` in slots `head …` and zeros elsewhere. -/
def ring (cap head : Nat) (bs : List Byte) : Ring where
  store := List.replicate head 0 ++ bs ++ List.replicate (cap - head - bs.length) 0
  head := head
  used := bs.length

/-- Driver state in TC1: linger 2, reception enabled, the given contents. -/
def drv (aux rxb txb : List Byte) : Driver where
  cfg := { rxFc := false, txFc := false, lingerUs := 2 }
  rxEnabled := true
  aux := ring 4 0 aux
  rxb := ring 8 0 rxb
  txb := ring 8 0 txb
  stats := Stats.zero

/-- A bound instance as BOOTED leaves it (95_test_vectors.md): `IM = 1011`, FIFOs empty. -/
def booted (d : Driver) : Uart := { Uart.powerOn with pen := true, im := 0b1011, driver := some d }

/-- TC1 with instance 0 as given and the rest as power-on left it. -/
def one (u : Uart) : State :=
  { State.reset with uarts := #v[u, Uart.powerOn, Uart.powerOn, Uart.powerOn] }

/-- `one` with a handler in flight on instance 0. -/
def inIsr (ph : IsrPh) (snap dis : Mask) (u : Uart) : State :=
  { one u with isr := { ph := ph, inst := 0, snap := snap, dis := dis, fired := firedBy ph snap } }

/-- `one` with a pass in flight on instance 0. -/
def inPass (ph : PassPh) (recd : Bool) (left : Nat) (u : Uart) : State :=
  { one u with pass := { ph := ph, inst := 0, recd := recd, lingerLeft := left } }

/-- A view of the next state. -/
def seen {α : Type} (r : Result) (f : State → α) : Option α :=
  match r with
  | .next t => some (f t)
  | .fault _ => none
  | .refused _ => none

/-- The outcome of a word. -/
def outcome (r : Result) : Option Reply := seen r State.reply

/-- `Uart.Wf` as a computation. -/
def uartOk (p : Params) (fc : Bool) (u : Uart) : Bool :=
  u.rxFifo.length ≤ p.hwRxDepth && u.txFifo.length ≤ p.hwTxDepth && u.pen == u.driver.isSome && (!u.rtr || fc) &&
    u.driver.all fun d =>
      decide (d.aux.Wf p.auxCap) && decide (d.rxb.Wf p.rxCap) && decide (d.txb.Wf p.txCap) &&
        (!(d.cfg.rxFc || d.cfg.txFc) || fc)

theorem uart_wf_of_ok {p : Params} {fc : Bool} {u : Uart} (h : uartOk p fc u = true) : u.Wf p fc := by
  simp only [uartOk, Bool.and_eq_true, decide_eq_true_eq, beq_iff_eq, Bool.or_eq_true, Bool.not_eq_true'] at h
  obtain ⟨⟨⟨⟨h1, h2⟩, h3⟩, h4⟩, h5⟩ := h
  refine ⟨h1, h2, h3, fun hr => h4.resolve_left (by simp [hr]), fun d hd => ?_⟩
  rw [hd] at h5
  simp only [Option.all_some, Bool.and_eq_true, decide_eq_true_eq, Bool.or_eq_true, Bool.not_eq_true'] at h5
  exact ⟨h5.1.1.1, h5.1.1.2, h5.1.2, fun hc => h5.2.resolve_left (by rw [hc]; decide)⟩

/-- `State.Inv` as a computation. -/
def invOk (s : State) : Bool :=
  decide (s.params.Wf ∧ (∀ i, uartOk s.params (s.fcSupported i) (s.uart i) = true) ∧
    (∀ i, s.hasInst i = false → s.uart i = Uart.powerOn) ∧
    (s.isr.ph ≠ .idle → s.hasInst s.isr.inst = true ∧ s.bound s.isr.inst = true) ∧
    (s.isr.ph = .i4l → anyBits s.isr.snap rxInts = true) ∧
    (s.isr.ph ≠ .idle → s.isr.fired = firedBy s.isr.ph s.isr.snap) ∧
    (s.isr.ph ≠ .idle → anyBits s.isr.dis maskOe = false) ∧
    (s.pass.ph ≠ .idle → s.hasInst s.pass.inst = true ∧ s.bound s.pass.inst = true) ∧
    (s.pass.ph ≠ .idle → s.pass.lingerLeft ≤ s.lingerBudget s.pass.inst) ∧
    (s.pass.ph = .r1 → s.pass.recd = false) ∧ s.fault.toNat ≤ 7)

theorem inv_of_ok {s : State} (h : invOk s = true) : s.Inv := by
  obtain ⟨h1, h2, h3, h4, h5, h6, h7, h8, h9, h10, h11⟩ := of_decide_eq_true h
  exact ⟨h1, fun i => uart_wf_of_ok (h2 i), h3, h4, h5, h6, h7, h8, h9, h10, h11⟩

/-! ## WellFormed refuses what the spec calls illegal (30_encoding.md R86, 10_state.md R40) -/

theorem test_wf_refuses_first_reserved_csr : (Instr.rdcsr 0 0x17).wf = false := by decide
theorem test_wf_refuses_last_reserved_csr : (Instr.rdcsr 0 0xFF).wf = false := by decide
theorem test_wf_accepts_last_csr : (Instr.rdcsr 3 0x16).wf = true := by decide

/-! ## Decoding: the words of V30-1, one for every operation -/

theorem test_decode_bavail : decode 0x04000000 = .ok (.bavail 0) := by rfl
theorem test_decode_rdbyte : decode 0x09000000 = .ok (.rdbyte 1) := by rfl
theorem test_decode_savail : decode 0x0C000000 = .ok (.savail 0) := by rfl
theorem test_decode_wrbyte : decode 0x10000010 = .ok (.wrbyte 0 0x10) := by rfl
theorem test_decode_intstat : decode 0x14000001 = .ok (.intstat 0 true) := by rfl
theorem test_decode_inten : decode 0x18000003 = .ok (.inten 0 0b0011) := by rfl
theorem test_decode_intdis : decode 0x1C000002 = .ok (.intdis 0 0b0010) := by rfl
theorem test_decode_intclr : decode 0x20000002 = .ok (.intclr 0 0b0010) := by rfl
theorem test_decode_busy : decode 0x24000000 = .ok (.busy 0) := by rfl
theorem test_decode_txput : decode 0x40000061 = .ok (.txput 0 0x61) := by rfl
theorem test_decode_rxget : decode 0x44000000 = .ok (.rxget 0) := by rfl
theorem test_decode_irq : decode 0x60000000 = .ok (.irq 0) := by rfl
theorem test_decode_istep : decode 0x65000000 = .ok (.istep 1) := by rfl
theorem test_decode_dispatch : decode 0x68000000 = .ok (.dispatch 0) := by rfl
theorem test_decode_pstep : decode 0x6D000000 = .ok (.pstep 1) := by rfl
theorem test_decode_init : decode 0x80800003 = .ok (.init 0 true false 3) := by rfl
theorem test_decode_deinit : decode 0x84000000 = .ok (.deinit 0) := by rfl
theorem test_decode_setrxen : decode 0x89000001 = .ok (.setrxen 1 true) := by rfl
theorem test_decode_flush : decode 0x8C000000 = .ok (.flush 0) := by rfl
theorem test_decode_rdcsr : decode 0x90000013 = .ok (.rdcsr 0 0x13) := by rfl
theorem test_decode_rxarrive : decode 0xC0000041 = .ok (.rxarrive 0 0x41) := by rfl
theorem test_decode_rxtimeout : decode 0xC4000000 = .ok (.rxtimeout 0) := by rfl
theorem test_decode_rxlevel : decode 0xC8000000 = .ok (.rxlevel 0) := by rfl
theorem test_decode_txshift : decode 0xCC000000 = .ok (.txshift 0) := by rfl
theorem test_decode_txlevel : decode 0xD0000000 = .ok (.txlevel 0) := by rfl

/-- Illegal words (V30-2), each by the name of its reason. -/
theorem test_decode_refuses_zero : decode 0x00000000 = .error .reservedOpcode := by rfl
theorem test_decode_refuses_operand_bit : decode 0x04000001 = .error .reservedOperandBit := by rfl
theorem test_decode_refuses_csr : decode 0x90000017 = .error .reservedCsr := by rfl

/-- The table's numbering: bit 0 of a row is bit 0 of the word; operand bits the row does not give are 0. -/
theorem test_table_word : decodeTableWord 32 0x18000003 = some (.inten 0 0b0011) := by rfl
/-- Assembly text (V30-1). -/
theorem test_asm : (Instr.rdcsr 0 0x13).asm = "RDCSR 0, 19" := by decide

/-! ## One step of each operation -/

/-- V40-1, V40-3. -/
theorem test_bavail : outcome (exec (.bavail 0) (one (booted (drv [] [] [])))) = some (.ok (some 0)) ∧
    outcome (exec (.bavail 0) (one { Uart.powerOn with rxFifo := [9] })) = some (.ok (some 1)) := by decide
/-- V40-9: the status does not change. -/
theorem test_rdbyte : seen (exec (.rdbyte 0) (one { Uart.powerOn with rxFifo := [9, 8], ris := 0b0010 }))
    (fun t => ((t.uart 0).rxFifo, (t.uart 0).ris, t.reply)) = some ([8], 0b0010, .ok (some 9)) := by decide
/-- V40-2. -/
theorem test_rdbyte_underrun :
    seen (exec (.rdbyte 0) State.reset) (fun t => (t.fault, t.reply)) = some (5, .fault .rxFifoUnderrun) := by decide
/-- V40-10, V40-11. -/
theorem test_savail : outcome (exec (.savail 0) State.reset) = some (.ok (some 1)) ∧
    outcome (exec (.savail 0) (one { Uart.powerOn with txFifo := [1, 2, 3, 4] })) = some (.ok (some 0)) := by decide
/-- V40-11: appended at the tail, no status. -/
theorem test_wrbyte : seen (exec (.wrbyte 0 0x12) (one { Uart.powerOn with txFifo := [0x10, 0x11] }))
    (fun t => ((t.uart 0).txFifo, (t.uart 0).ris)) = some ([0x10, 0x11, 0x12], 0) := by decide
/-- V60-6: the first fault is kept. -/
theorem test_wrbyte_overrun :
    seen (exec (.wrbyte 0 9) { one { Uart.powerOn with txFifo := [1, 2, 3, 4] } with fault := 5 })
      (fun t => ((t.uart 0).txFifo, t.fault, t.reply)) = some ([1, 2, 3, 4], 5, .fault .txFifoOverrun) := by decide
/-- V40-5. -/
theorem test_intstat : outcome (exec (.intstat 0 true) (one { Uart.powerOn with ris := 2 })) = some (.ok (some 0)) ∧
    outcome (exec (.intstat 0 false) (one { Uart.powerOn with ris := 2 })) = some (.ok (some 2)) := by decide
/-- V42-8: `INTEN TX` on `IM = 1011`. -/
theorem test_inten : seen (exec (.inten 0 4) (one { Uart.powerOn with im := 0b1011 })) (fun t => (t.uart 0).im) =
    some 0b1111 := by decide
/-- V40-7. -/
theorem test_intdis : seen (exec (.intdis 0 2) (one { Uart.powerOn with im := 0b1111, ris := 2 }))
    (fun t => ((t.uart 0).im, (t.uart 0).ris)) = some (0b1101, 2) := by decide
/-- V40-8. -/
theorem test_intclr : seen (exec (.intclr 0 2) (one { Uart.powerOn with im := 0b1101, ris := 2 }))
    (fun t => ((t.uart 0).im, (t.uart 0).ris)) = some (0b1101, 0) := by decide
/-- V40-11. -/
theorem test_busy : outcome (exec (.busy 0) (one { Uart.powerOn with txFifo := [1] })) = some (.ok (some 1)) := by
  decide
/-- V41-2. -/
theorem test_txput : seen (exec (.txput 0 0x61) (one (booted (drv [] [] []))))
    (fun t => ((t.uart 0).driver.map (fun d => (d.txb.used, d.txb.contents)), (t.uart 0).dispReq, t.reply)) =
      some (some (1, [0x61]), false, .ok (some 1)) := by decide
/-- V41-2: the ninth byte is refused, and that is no fault. -/
theorem test_txput_full : outcome (exec (.txput 0 0x69) (one (booted (drv [] [] [1, 2, 3, 4, 5, 6, 7, 8])))) =
    some (.ok (some 0)) := by decide
/-- R127 and P1: `0x100 | b`. -/
theorem test_rxget : seen (exec (.rxget 0) (one (booted (drv [] [0x48, 0x49] []))))
    (fun t => ((t.uart 0).driver.map (fun d => d.rxb.contents), t.reply)) =
      some (some [0x49], .ok (some 0x148)) := by decide
/-- V42-6: entry with nothing pending. -/
theorem test_irq : seen (exec (.irq 0) (one (booted (drv [] [] [])))) (fun t => (t.isr.ph, t.isr.snap, t.reply)) =
    some (.i2, 0, .ok none) := by decide
/-- V42-1, the fifth `ISTEP`: one byte to `AUX`. -/
theorem test_istep_drain :
    seen (exec (.istep 0) (inIsr .i4l 1 0 { booted (drv [] [] []) with rxFifo := [0x41, 0x42], ris := 1 }))
      (fun t => ((t.uart 0).driver.map (fun d => d.aux.contents), (t.uart 0).rxFifo, t.isr.ph)) =
        some (some [0x41], [0x42], .i4l) := by decide
/-- V42-5, the end of the drain with `AUX` full. -/
theorem test_istep_full :
    seen (exec (.istep 0) (inIsr .i4l 0b1001 0 { booted (drv [1, 2, 3, 4] [] []) with ris := 0b1001 }))
      (fun t => (t.isr.ph, t.isr.dis)) = some (.i5, 0b0011) := by decide
/-- V43-11 and V43-4. -/
theorem test_dispatch : outcome (exec (.dispatch 0) State.reset) = some (.fault .noInstance) ∧
    seen (exec (.dispatch 0) (one (booted (drv [] [] [])))) (fun t => (t.uart 0).dispReq) = some true := by decide
/-- V43-3: `R1L` moves two bytes. -/
theorem test_pstep_move : seen (exec (.pstep 0) (inPass .r1l false 2 { booted (drv [0x41, 0x42] [] []) with im := 8 }))
    (fun t => ((t.uart 0).driver.map (fun d => (d.rxb.contents, d.aux.used, d.stats.rxBytes)), t.pass.recd)) =
      some (some ([0x41, 0x42], 0, 2), true) := by decide
/-- V43-9. -/
theorem test_pstep_race : outcome (exec (.pstep 0) (inPass .r1l false 2 (booted (drv [0x41] [] [])))) =
    some (.fault .auxRace) := by decide
/-- V44-1: `CTL = 0x09` after `INIT 0, 0`. -/
theorem test_init : seen (exec (.init 0 false false 0) State.reset)
    (fun t => ((t.uart 0).pen, (t.uart 0).im, HwCsr.ctl.value t 0, t.reply)) = some (true, 0, 9, .ok (some 0)) := by
  rfl
/-- V44-2: no flow-control pins; no such instance. -/
theorem test_init_refused : outcome (exec (.init 1 true false 0) State.reset) = some (.ok (some 0xFFFFFFFF)) ∧
    outcome (exec (.init 3 false false 0) State.reset) = some (.ok (some 0xFFFFFFFF)) := by decide
/-- V44-13: the request survives `DEINIT`. -/
theorem test_deinit : seen (exec (.deinit 0) (one { booted (drv [] [] []) with dispReq := true }))
    (fun t => ((t.uart 0).driver, (t.uart 0).pen, (t.uart 0).im, (t.uart 0).dispReq)) =
      some (none, false, 0, true) := by decide
/-- V44-12. -/
theorem test_deinit_in_pass : outcome (exec (.deinit 0) (inPass .r1 false 0 (booted (drv [] [] [])))) =
    some (.fault .deinitDuringPass) := by decide
/-- V44-6: without flow control `RTR` stays 0 on enable. -/
theorem test_setrxen : seen (exec (.setrxen 0 true) (one (booted (drv [] [] [])))) (fun t => (t.uart 0).rtr) =
    some false := by decide
/-- V44-8, V44-9. -/
theorem test_flush : outcome (exec (.flush 0) (one { booted (drv [] [] []) with txFifo := [0x64] })) = some .hold ∧
    outcome (exec (.flush 0) (one (booted (drv [] [] [0x61])))) = some (.ok none) := by decide
/-- V44-11: `CTL` and `IM` of BOOTED. -/
theorem test_rdcsr : outcome (exec (.rdcsr 0 3) (one (booted (drv [] [] [])))) = some (.ok (some 0xD)) ∧
    outcome (exec (.rdcsr 0 1) (one (booted (drv [] [] [])))) = some (.ok (some 0xB)) := by decide
/-- V45-3. -/
theorem test_rxarrive : seen (exec (.rxarrive 0 0x42) (one { booted (drv [] [] []) with rxFifo := [0x41] }))
    (fun t => ((t.uart 0).rxFifo, (t.uart 0).ris)) = some ([0x41, 0x42], 1) := by decide
/-- V45-4: the fifth byte is lost. -/
theorem test_rxarrive_lost :
    seen (exec (.rxarrive 0 0x45) (one { booted (drv [] [] []) with rxFifo := [1, 2, 3, 4], ris := 1 }))
      (fun t => ((t.uart 0).rxFifo, (t.uart 0).ris, (t.uart 0).rxLost)) = some ([1, 2, 3, 4], 0b1001, 1) := by decide
/-- V45-6, V45-7. -/
theorem test_rxtimeout : outcome (exec (.rxtimeout 0) (one (booted (drv [] [] [])))) = some .hold ∧
    seen (exec (.rxtimeout 0) (one { booted (drv [] [] []) with rxFifo := [0x5A] })) (fun t => (t.uart 0).ris) =
      some 2 := by decide
/-- V45-7, V45-8. -/
theorem test_rxlevel : outcome (exec (.rxlevel 0) (one { booted (drv [] [] []) with rxFifo := [1] })) = some .hold ∧
    seen (exec (.rxlevel 0) (one { booted (drv [] [] []) with rxFifo := [1, 2] })) (fun t => (t.uart 0).ris) =
      some 1 := by decide
/-- V45-10: level 2 leaves no status, level 1 does. -/
theorem test_txshift :
    seen (exec (.txshift 0) (one { booted (drv [] [] []) with txFifo := [0x62, 0x63, 0x64] }))
      (fun t => ((t.uart 0).ris, (t.uart 0).txLine, t.reply)) = some (0, [0x62], .ok (some 0x62)) ∧
    seen (exec (.txshift 0) (one { booted (drv [] [] []) with txFifo := [0x63, 0x64] }))
      (fun t => ((t.uart 0).ris, (t.uart 0).txFifo)) = some (4, [0x64]) := by decide
/-- V45-9, V45-10. -/
theorem test_txlevel : seen (exec (.txlevel 0) (one (booted (drv [] [] [])))) (fun t => (t.uart 0).ris) = some 4 ∧
    outcome (exec (.txlevel 0) (one { booted (drv [] [] []) with txFifo := [1, 2, 3, 4] })) = some .hold := by decide

/-- A word presented right after reset is what the next step runs. -/
theorem test_step_runs_presented_word :
    seen (step (State.reset.withFetchWord 32 0x80000002)) (fun t => ((t.uart 0).pen, t.port, t.reply)) =
      some (true, [], .ok (some 0)) := by rfl
/-- V60-1: decode before context. -/
theorem test_step_illegal_word :
    outcome (step ((inIsr .i2 1 0 (booted (drv [] [] []))).withFetchWord 32 0)) = some (.fault .illegalWord) := by decide
/-- V60-2: context before instance range. -/
theorem test_context_before_range : outcome (exec (.bavail 3) (inIsr .i2 1 0 (booted (drv [] [] [])))) =
    some .hold := by decide
/-- V60-4: binding before the lock. -/
theorem test_binding_before_lock : outcome (exec (.txput 1 0x55) (inPass .r1 false 0 (booted (drv [] [] [])))) =
    some (.fault .noInstance) := by decide

/-! ## Witnesses: concrete states and operands that meet the hypotheses of each statement -/

/-- Instance 0 bound, nothing pending, nothing in flight. -/
def idleState : State := one (booted (drv [] [] []))

/-- A handler about to drain: a byte in the FIFO, `RX` snapshotted. -/
def drainState : State := inIsr .i4l 1 0 { booted (drv [0x40] [] []) with rxFifo := [0x41], ris := 1 }

/-- A pass about to move a byte past one that the handler left in `AUX` (70_reset_and_hazards.md R272). -/
def hazardState : State := inPass .r2 false 2 { booted (drv [0x01] [] []) with rxFifo := [0x02] }

/-- The checks of `TaskChecks`, clause by clause: first at a handler in flight, then at the first instance that does
not exist; and `TaskReady` at the last that does. -/
theorem witness_TaskChecks : drainState.isr.ph ≠ .idle ∧
    (State.reset.isr.ph = .idle ∧ State.reset.params.numInst ≤ (2 : InstId).toNat) ∧ TaskReady State.reset 1 :=
  ⟨by decide, ⟨rfl, by decide⟩, rfl, by decide⟩

/-- The last check of `BoundChecks`, and its opposite. -/
theorem witness_BoundChecks : (TaskReady State.reset 1 ∧ (State.reset.uart 1).driver = none) ∧
    TaskReady idleState 0 ∧ (idleState.uart 0).driver = some (drv [] [] []) :=
  ⟨⟨⟨rfl, by decide⟩, rfl⟩, ⟨rfl, by decide⟩, rfl⟩

/-- `RangeCheck` at the first and last instance that do not exist, and the last that does. -/
theorem witness_RangeCheck : State.reset.params.numInst ≤ (2 : InstId).toNat ∧
    State.reset.params.numInst ≤ (3 : InstId).toNat ∧ (1 : InstId).toNat < State.reset.params.numInst := by decide

theorem witness_DecodeOfEncode :
    (Instr.rdcsr 3 0x16).wf = true ∧ (Instr.init 3 true true 0x3FFFFF).wf = true := by decide

theorem witness_EncodeOfDecode : decode 0x93000016 = .ok (.rdcsr 3 0x16) := by rfl

theorem witness_IllegalWordsFault :
    (State.reset.withFetchWord 32 0x90000017).port = [{ word := 0x90000017, allocOk := true }] ∧
      ¬ LegalWord 0x90000017 ∧ LegalWord 0x90000016 := by
  refine ⟨rfl, ?_, ?_⟩ <;> unfold LegalWord <;> decide

theorem witness_StepRunsDecodedWord :
    (State.reset.withFetchWord 32 0x80000002).port = [{ word := 0x80000002, allocOk := true }] ∧
      decode 0x80000002 = .ok (.init 0 false false 2) := ⟨rfl, rfl⟩

theorem witness_EmptyPortStepIdles : State.reset.port = [] := rfl

theorem witness_PowerOnState : (0 : InstId).toNat < Params.tc1.numInst ∧ (1 : InstId).toNat < Params.tc1.numInst := by
  decide

theorem witness_InvariantAtReset : Params.tc1.Wf := by decide

theorem witness_StepKeepsInvariant : State.Inv (hazardState.withFetchWord 32 0x6C000000) ∧
    ∃ t, step (hazardState.withFetchWord 32 0x6C000000) = .next t ∧ t.pass.recd = true :=
  ⟨inv_of_ok (by decide), _, rfl, rfl⟩

theorem witness_InvariantStatesNeverStop : drainState.Inv ∧ hazardState.Inv :=
  ⟨inv_of_ok (by decide), inv_of_ok (by decide)⟩

theorem witness_FaultingWordChangesOnlyFault :
    ∃ t, exec (.rdbyte 0) State.reset = .next t ∧ t.reply = .fault .rxFifoUnderrun := ⟨_, rfl, rfl⟩

theorem witness_HeldWordChangesNothing : ∃ t, exec (.bavail 0) drainState = .next t ∧ t.reply = .hold :=
  ⟨_, rfl, rfl⟩

theorem witness_FaultRegisterIsSticky :
    (State.reset.withFetchWord 32 0).port ≠ [] ∧ ∃ t, step (State.reset.withFetchWord 32 0) = .next t ∧
      t.fault ≠ (State.reset.withFetchWord 32 0).fault ∧ t.reply = .fault .illegalWord :=
  ⟨by decide, _, rfl, by decide, rfl⟩

/-- Each of the seven faults is raised somewhere. -/
theorem witness_FaultCodesAndConditions :
    (∃ t, exec (.rdcsr 0 0x17) State.reset = .next t ∧ t.reply = .fault .illegalWord) ∧
    (∃ t, exec (.bavail 2) State.reset = .next t ∧ t.reply = .fault .noInstance) ∧
    (∃ t, exec (.rdcsr 0 0x16) State.reset = .next t ∧ t.reply = .fault .noInstance) ∧
    (∃ t, exec (.init 0 false false 0) idleState = .next t ∧ t.reply = .fault .doubleInit) ∧
    (∃ t, exec (.deinit 0) hazardState = .next t ∧ t.reply = .fault .deinitDuringPass) ∧
    (∃ t, exec (.rdbyte 1) State.reset = .next t ∧ t.reply = .fault .rxFifoUnderrun) ∧
    (∃ t, exec (.wrbyte 0 9) (one { booted (drv [] [] []) with txFifo := [1, 2, 3, 4] }) = .next t ∧
      t.reply = .fault .txFifoOverrun) ∧
    ∃ t, exec (.pstep 0) (inPass .r1l false 0 (booted (drv [1] [] []))) = .next t ∧ t.reply = .fault .auxRace :=
  ⟨⟨_, rfl, rfl⟩, ⟨_, rfl, rfl⟩, ⟨_, rfl, rfl⟩, ⟨_, rfl, rfl⟩, ⟨_, rfl, rfl⟩, ⟨_, rfl, rfl⟩, ⟨_, rfl, rfl⟩, ⟨_, rfl, rfl⟩⟩

theorem witness_TaskWordsHoldDuringHandler :
    ((Instr.rdcsr 0 0x16).wf = true ∧ (Instr.rdcsr 0 0x16).agent = .host ∧ (Instr.pstep 0).agent = .dispatch ∧
      drainState.isr.ph ≠ .idle) ∧
    (hazardState.isr.ph = .idle ∧ (∃ t, exec (.txput 0 7) hazardState = .next t ∧ t.reply = .hold) ∧
      (∃ t, exec (.pstep 1) hazardState = .next t ∧ t.reply = .hold) ∧
      ∃ t, exec (.pstep 0) idleState = .next t ∧ t.reply = .hold) ∧
    ((Instr.rxarrive 0 7).agent = .peripheral ∧ ∃ t, exec (.rxarrive 0 7) drainState = .next t) ∧
    (drainState.withFetchWord 32 0).port = [{ word := 0, allocOk := true }] ∧
      (drainState.withFetchWord 32 0).isr.ph ≠ .idle ∧ ∀ x, decode 0 ≠ .ok x := by
  refine ⟨by decide, ⟨rfl, ⟨_, rfl, rfl⟩, ⟨_, rfl, rfl⟩, _, rfl, rfl⟩, ⟨rfl, _, rfl⟩, rfl, by decide, fun x h => ?_⟩
  rw [show decode 0 = .error .reservedOpcode from rfl] at h
  cases h

theorem witness_LevelAndStatusReads : TaskReady State.reset 1 := ⟨rfl, by decide⟩

theorem witness_RdbyteTakesOldestByte :
    (TaskReady State.reset 1 ∧ (State.reset.uart 1).rxFifo = []) ∧
      TaskReady hazardState 0 ∧ (hazardState.uart 0).rxFifo = [0x02] :=
  ⟨⟨⟨rfl, by decide⟩, rfl⟩, ⟨rfl, by decide⟩, rfl⟩

/-- The FIFO full, one below full, and empty. -/
theorem witness_WrbyteAppendsByte : TaskReady (one { Uart.powerOn with txFifo := [1, 2, 3, 4] }) 0 ∧
    ((one { Uart.powerOn with txFifo := [1, 2, 3, 4] }).uart 0).txFifo.length = Params.tc1.hwTxDepth ∧
    ((one { Uart.powerOn with txFifo := [1, 2, 3] }).uart 0).txFifo.length < Params.tc1.hwTxDepth :=
  ⟨⟨rfl, by decide⟩, by decide, by decide⟩

theorem witness_MaskWordsWriteNamedBits : TaskReady (one { Uart.powerOn with ris := 2 }) 0 ∧
    ((one { Uart.powerOn with ris := 2 }).uart 0).ris &&& 0b1111 ≠ 0 ∧
    ∃ t, exec (.inten 0 0b1111) (one { Uart.powerOn with ris := 2 }) = .next t :=
  ⟨⟨rfl, by decide⟩, by decide, _, rfl⟩

/-- A buffer whose next byte goes to the last slot, and a full one that has wrapped. -/
theorem witness_RingIsAFifo : (ring 4 2 [0x0A]).Wf 4 ∧ ({ store := [1, 2, 3, 4], head := 3, used := 4 } : Ring).Wf 4 := by
  decide

theorem witness_RingPrimitivesMeetContract :
    (ring 4 2 [0x0A, 0x0B]).Wf 4 ∧ 2 ≤ (ring 4 2 [0x0A, 0x0B]).used ∧ (ring 1 0 []).Wf 1 := by decide

/-- With the lock taken; with `TXB` full; with room for one byte. -/
theorem witness_TxputAppendsToMainBuffer :
    (TaskReady hazardState 0 ∧ (hazardState.uart 0).driver = some (drv [1] [] []) ∧
      (drv [1] [] []).txb.Wf Params.tc1.txCap ∧ hazardState.pass.ph ≠ .idle) ∧
    ((drv [] [] [1, 2, 3, 4, 5, 6, 7, 8]).txb.Wf Params.tc1.txCap ∧
      (drv [] [] [1, 2, 3, 4, 5, 6, 7, 8]).txb.used = Params.tc1.txCap ∧
      TaskReady (one (booted (drv [] [] [1, 2, 3, 4, 5, 6, 7, 8]))) 0 ∧
      (one (booted (drv [] [] [1, 2, 3, 4, 5, 6, 7, 8]))).pass.ph = .idle) ∧
    ((drv [] [] [1, 2, 3, 4, 5, 6, 7]).txb.Wf Params.tc1.txCap ∧
      (drv [] [] [1, 2, 3, 4, 5, 6, 7]).txb.used < Params.tc1.txCap ∧
      TaskReady (one (booted (drv [] [] [1, 2, 3, 4, 5, 6, 7]))) 0 ∧
      (one (booted (drv [] [] [1, 2, 3, 4, 5, 6, 7]))).pass.ph = .idle) :=
  ⟨⟨⟨rfl, by decide⟩, rfl, by decide, by decide⟩, ⟨by decide, by decide, ⟨rfl, by decide⟩, rfl⟩,
    by decide, by decide, ⟨rfl, by decide⟩, rfl⟩

/-- With the lock taken; with `RXB` empty; with one byte. -/
theorem witness_RxgetTakesFromMainBuffer :
    (TaskReady hazardState 0 ∧ (hazardState.uart 0).driver = some (drv [1] [] []) ∧ hazardState.pass.ph ≠ .idle ∧
      (drv [1] [] []).rxb.Wf Params.tc1.rxCap) ∧
    (TaskReady idleState 0 ∧ idleState.pass.ph = .idle ∧ (drv [] [] []).rxb.contents = []) ∧
    (drv [] [0x48] []).rxb.Wf Params.tc1.rxCap ∧ (drv [] [0x48] []).rxb.contents = [0x48] ∧
      TaskReady (one (booted (drv [] [0x48] []))) 0 :=
  ⟨⟨⟨rfl, by decide⟩, rfl, by decide, by decide⟩, ⟨⟨rfl, by decide⟩, rfl, rfl⟩, by decide, by decide, rfl, by decide⟩

theorem witness_IrqEntersHandler : (1 : InstId).toNat < State.reset.params.numInst ∧ drainState.isr.ph ≠ .idle ∧
    (State.reset.isr.ph = .idle ∧ (State.reset.uart 1).driver = none) ∧
    (0 : InstId).toNat < idleState.params.numInst ∧ idleState.isr.ph = .idle ∧ (idleState.uart 0).driver ≠ none := by
  decide

/-- A handler on another instance; no request; a request of an unbound instance; a request of a bound one. -/
theorem witness_IstepEntersHandler :
    (drainState.isr.ph ≠ .idle ∧ drainState.isr.inst ≠ 1) ∧
    (idleState.isr.ph = .idle ∧ (idleState.uart 0).ris &&& (idleState.uart 0).im = 0) ∧
    (let u : Uart := { Uart.powerOn with ris := 1, im := 1 }
     (one u).isr.ph = .idle ∧ u.ris &&& u.im ≠ 0 ∧ ((one u).uart 0).driver = none) ∧
    (let u : Uart := { booted (drv [] [] []) with ris := 1 }
     (one u).isr.ph = .idle ∧ u.ris &&& u.im ≠ 0 ∧ ((one u).uart 0).driver ≠ none) := by decide

/-- Each phase, with the tested bit set and with it clear. -/
theorem witness_HandlerCountsBySnapshot :
    HandlerAt (inIsr .i2 1 0 (booted (drv [] [] []))) .i2 0 (drv [] [] []) ∧
    HandlerAt (inIsr .i3 0b1000 0 (booted (drv [] [] []))) .i3 0 (drv [] [] []) ∧
    HandlerAt (inIsr .i4 0b0010 0 (booted (drv [] [] []))) .i4 0 (drv [] [] []) ∧
    HandlerAt (inIsr .i5 0b0100 0 (booted (drv [] [] []))) .i5 0 (drv [] [] []) ∧
    (0b1000 : Mask) &&& 0b1000 ≠ 0 ∧ (0b0010 : Mask) &&& 0b1000 = 0 ∧ (0b0010 : Mask) &&& 0b0011 ≠ 0 ∧
    (0b0100 : Mask) &&& 0b0011 = 0 ∧ (0b0100 : Mask) &&& 0b0100 ≠ 0 ∧ (0b1011 : Mask) &&& 0b0100 = 0 :=
  ⟨⟨rfl, rfl, by decide, rfl⟩, ⟨rfl, rfl, by decide, rfl⟩, ⟨rfl, rfl, by decide, rfl⟩, ⟨rfl, rfl, by decide, rfl⟩,
    by decide⟩

/-- A byte and room; `AUX` full; no byte and room. -/
theorem witness_HandlerDrainsFifoIntoAux :
    (HandlerAt drainState .i4l 0 (drv [0x40] [] []) ∧ (drv [0x40] [] []).aux.Wf Params.tc1.auxCap ∧
      (drainState.uart 0).rxFifo = [0x41] ∧ 0 < (drv [0x40] [] []).aux.avail) ∧
    (HandlerAt (inIsr .i4l 1 0 (booted (drv [1, 2, 3, 4] [] []))) .i4l 0 (drv [1, 2, 3, 4] [] []) ∧
      (drv [1, 2, 3, 4] [] []).aux.Wf Params.tc1.auxCap ∧ (drv [1, 2, 3, 4] [] []).aux.avail = 0) ∧
    HandlerAt (inIsr .i4l 1 0 (booted (drv [1, 2, 3] [] []))) .i4l 0 (drv [1, 2, 3] [] []) ∧
      (drv [1, 2, 3] [] []).aux.Wf Params.tc1.auxCap ∧ 0 < (drv [1, 2, 3] [] []).aux.avail ∧
      ((inIsr .i4l 1 0 (booted (drv [1, 2, 3] [] []))).uart 0).rxFifo = [] :=
  ⟨⟨⟨rfl, rfl, by decide, rfl⟩, by decide, rfl, by decide⟩, ⟨⟨rfl, rfl, by decide, rfl⟩, by decide, by decide⟩,
    ⟨rfl, rfl, by decide, rfl⟩, by decide, by decide, rfl⟩

theorem witness_HandlerRequestsMasksAndReturns :
    (HandlerAt (inIsr .i6 1 0 (booted (drv [] [] []))) .i6 0 (drv [] [] []) ∧
      (inIsr .i6 1 0 (booted (drv [] [] []))).isr.fired = true) ∧
    (HandlerAt (inIsr .i6 0 0 (booted (drv [] [] []))) .i6 0 (drv [] [] []) ∧
      (inIsr .i6 0 0 (booted (drv [] [] []))).isr.fired = false) ∧
    HandlerAt (inIsr .i7a 4 4 (booted (drv [] [] []))) .i7a 0 (drv [] [] []) ∧
    HandlerAt (inIsr .i7b 4 4 (booted (drv [] [] []))) .i7b 0 (drv [] [] []) :=
  ⟨⟨⟨rfl, rfl, by decide, rfl⟩, rfl⟩, ⟨⟨rfl, rfl, by decide, rfl⟩, rfl⟩, ⟨rfl, rfl, by decide, rfl⟩,
    rfl, rfl, by decide, rfl⟩

theorem witness_HandlerStaysInItsContext : (drainState.Inv ∧ drainState.isr.ph ≠ .idle) ∧
    (Instr.istep 0).agent = .interrupt ∧ (∃ t, exec (.istep 0) drainState = .next t) ∧
    (drainState.uart 0).driver = some (drv [0x40] [] []) ∧ (drainState.uart 1).driver = none :=
  ⟨⟨inv_of_ok (by decide), by decide⟩, rfl, ⟨_, rfl⟩, rfl, rfl⟩

/-- A receive interrupt that fills `AUX`; a transmit interrupt alone; nothing pending, for `IRQ`. -/
theorem witness_HandlerInvocationFollowsTable :
    (let d := drv [1, 2, 3] [] []
     let u : Uart := { booted d with rxFifo := [4, 5], ris := 1 }
     (one u).Inv ∧ (one u).isr.ph = .idle ∧ (0 : InstId).toNat < (one u).params.numInst ∧
       ((one u).uart 0).driver = some d ∧ u.ris &&& u.im ≠ 0) ∧
    (let d := drv [] [] []
     let u : Uart := { booted d with im := 4, ris := 4 }
     (one u).Inv ∧ (one u).isr.ph = .idle ∧ ((one u).uart 0).driver = some d ∧ u.ris &&& u.im ≠ 0) ∧
    idleState.Inv ∧ idleState.isr.ph = .idle ∧ (idleState.uart 0).driver = some (drv [] [] []) :=
  ⟨⟨inv_of_ok (by decide), rfl, by decide, rfl, by decide⟩, ⟨inv_of_ok (by decide), rfl, rfl, by decide⟩,
    inv_of_ok (by decide), rfl, rfl⟩

theorem witness_DispatchRequestsAPass : TaskReady idleState 0 ∧ (idleState.uart 0).driver ≠ none :=
  ⟨⟨rfl, by decide⟩, by decide⟩

/-- The lock taken by another; nothing requested; a request of an unbound instance; of a bound one. -/
theorem witness_PstepStartsAPass :
    (TaskReady hazardState 1 ∧ hazardState.pass.ph ≠ .idle ∧ hazardState.pass.inst ≠ 1) ∧
    (TaskReady idleState 0 ∧ idleState.pass.ph = .idle ∧ (idleState.uart 0).dispReq = false) ∧
    (let s := one { Uart.powerOn with dispReq := true }
     TaskReady s 0 ∧ s.pass.ph = .idle ∧ (s.uart 0).dispReq = true ∧ (s.uart 0).driver = none) ∧
    (let s := one { booted (drv [] [] []) with dispReq := true }
     TaskReady s 0 ∧ s.pass.ph = .idle ∧ (s.uart 0).dispReq = true ∧ (s.uart 0).driver = some (drv [] [] [])) :=
  ⟨⟨⟨rfl, by decide⟩, by decide, by decide⟩, ⟨⟨rfl, by decide⟩, rfl, rfl⟩, ⟨⟨rfl, by decide⟩, rfl, rfl, rfl⟩,
    ⟨rfl, by decide⟩, rfl, rfl, rfl⟩

theorem witness_PassMasksOnlyIfAuxHoldsBytes :
    (PassAt (inPass .r1 false 2 (booted (drv [1] [] []))) .r1 0 (drv [1] [] []) ∧ 0 < (drv [1] [] []).aux.used) ∧
    PassAt (inPass .r1 false 2 (booted (drv [] [] []))) .r1 0 (drv [] [] []) ∧ (drv [] [] []).aux.used = 0 :=
  ⟨⟨⟨rfl, rfl, rfl, by decide, rfl⟩, by decide⟩, ⟨rfl, rfl, rfl, by decide, rfl⟩, rfl⟩

/-- The loop over; a move due with the receive interrupts unmasked; a move due with them masked. -/
theorem witness_PassMovesAuxToMainBuffer :
    (PassAt (inPass .r1l true 2 (booted (drv [] [] []))) .r1l 0 (drv [] [] []) ∧
      (drv [] [] []).aux.Wf Params.tc1.auxCap ∧ (drv [] [] []).rxb.Wf Params.tc1.rxCap ∧
      (drv [] [] []).aux.used = 0) ∧
    (let d := drv [1] [1, 2, 3, 4, 5, 6, 7] []
     d.aux.Wf Params.tc1.auxCap ∧ d.rxb.Wf Params.tc1.rxCap ∧ 0 < d.rxb.avail ∧ 0 < d.aux.used ∧
       PassAt (inPass .r1l false 2 (booted d)) .r1l 0 d ∧ (booted d).im &&& 0b0011 ≠ 0 ∧
       PassAt (inPass .r1l false 2 { booted d with im := 8 }) .r1l 0 d ∧ (8 : Mask) &&& 0b0011 = 0) :=
  ⟨⟨⟨rfl, rfl, rfl, by decide, rfl⟩, by decide, by decide, rfl⟩, by decide, by decide, by decide, by decide,
    ⟨rfl, rfl, rfl, by decide, rfl⟩, by decide, ⟨rfl, rfl, rfl, by decide, rfl⟩, by decide⟩

/-- A byte and room; no room; no byte. -/
theorem witness_PassDrainsFifoIntoMainBuffer :
    (PassAt hazardState .r2 0 (drv [1] [] []) ∧ (drv [1] [] []).rxb.Wf Params.tc1.rxCap ∧
      (hazardState.uart 0).rxFifo = [2] ∧ 0 < (drv [1] [] []).rxb.avail) ∧
    (let d := drv [] [1, 2, 3, 4, 5, 6, 7, 8] []
     PassAt (inPass .r2 true 2 { booted d with rxFifo := [9] }) .r2 0 d ∧ d.rxb.Wf Params.tc1.rxCap ∧
       d.rxb.avail = 0) ∧
    PassAt (inPass .r2 true 2 (booted (drv [] [] []))) .r2 0 (drv [] [] []) ∧
      ((inPass .r2 true 2 (booted (drv [] [] []))).uart 0).rxFifo = [] :=
  ⟨⟨⟨rfl, rfl, rfl, by decide, rfl⟩, by decide, rfl, by decide⟩,
    ⟨⟨rfl, rfl, rfl, by decide, rfl⟩, by decide, by decide⟩, ⟨rfl, rfl, rfl, by decide, rfl⟩, rfl⟩

/-- The last poll of the budget, with and without a byte; and the budget used up. -/
theorem witness_PassLingersWithinBudget :
    (let d := drv [] [1] []
     0 < d.rxb.avail ∧ d.cfg.lingerUs ≠ 0 ∧
     (PassAt (inPass .r3 true 1 (booted d)) .r3 0 d ∧ ((inPass .r3 true 1 (booted d)).uart 0).rxFifo = [] ∧
       (inPass .r3 true 1 (booted d)).pass.recd = true ∧ 0 < (inPass .r3 true 1 (booted d)).pass.lingerLeft) ∧
     (PassAt (inPass .r3 true 1 { booted d with rxFifo := [2] }) .r3 0 d ∧
       ((inPass .r3 true 1 { booted d with rxFifo := [2] }).uart 0).rxFifo ≠ []) ∧
     PassAt (inPass .r3 true 0 (booted d)) .r3 0 d ∧ (inPass .r3 true 0 (booted d)).pass.lingerLeft = 0) :=
  ⟨by decide, by decide, ⟨⟨rfl, rfl, rfl, by decide, rfl⟩, rfl, rfl, by decide⟩,
    ⟨⟨rfl, rfl, rfl, by decide, rfl⟩, by decide⟩, ⟨rfl, rfl, rfl, by decide, rfl⟩, rfl⟩

theorem witness_PassClearsHandledStatus :
    PassAt (inPass .r4 true 0 { booted (drv [] [] []) with ris := 15 }) .r4 0 (drv [] [] []) ∧
    PassAt (inPass .t2 true 0 { booted (drv [] [] []) with ris := 15 }) .t2 0 (drv [] [] []) :=
  ⟨⟨rfl, rfl, rfl, by decide, rfl⟩, rfl, rfl, rfl, by decide, rfl⟩

/-- A byte and one place left; no byte; no place left. -/
theorem witness_PassSendsOneByte :
    (let d := drv [] [] [0x61]
     PassAt (inPass .t1 true 0 { booted d with txFifo := [1, 2, 3] }) .t1 0 d ∧ d.txb.Wf Params.tc1.txCap ∧
       d.txb.contents = [0x61] ∧
       ((inPass .t1 true 0 { booted d with txFifo := [1, 2, 3] }).uart 0).txFifo.length < Params.tc1.hwTxDepth ∧
       PassAt (inPass .t1 true 0 { booted d with txFifo := [1, 2, 3, 4] }) .t1 0 d ∧
       Params.tc1.hwTxDepth ≤ ((inPass .t1 true 0 { booted d with txFifo := [1, 2, 3, 4] }).uart 0).txFifo.length) ∧
    PassAt (inPass .t1 true 0 (booted (drv [] [] []))) .t1 0 (drv [] [] []) ∧ (drv [] [] []).txb.used = 0 :=
  ⟨⟨⟨rfl, rfl, rfl, by decide, rfl⟩, by decide, by decide, by decide, ⟨rfl, rfl, rfl, by decide, rfl⟩, by decide⟩,
    ⟨rfl, rfl, rfl, by decide, rfl⟩, rfl⟩

theorem witness_BottomHalfRearms : PassAt (inPass .b1 true 0 (booted (drv [] [] [1]))) .b1 0 (drv [] [] [1]) :=
  ⟨rfl, rfl, rfl, by decide, rfl⟩

/-- A pass step that is ok; a word that is none; the measure just after `D0`. -/
theorem witness_PassMeasureFalls :
    (hazardState.Inv ∧ hazardState.pass.ph ≠ .idle ∧
      (∃ t, exec (.pstep 0) hazardState = .next t ∧ t.reply = .ok none) ∧
      ∃ t, exec (.rxarrive 0 9) hazardState = .next t) ∧
    (inPass .r1 false 2 (booted (drv [1] [] []))).Inv ∧ (inPass .r1 false 2 (booted (drv [1] [] []))).pass.ph = .r1 :=
  ⟨⟨inv_of_ok (by decide), by decide, ⟨_, rfl, rfl⟩, _, rfl⟩, inv_of_ok (by decide), rfl⟩

/-- More bytes to send than the transmit FIFO has room for. -/
theorem witness_PassEndsAndTransmits :
    (let d := drv [1] [] [0x61, 0x62]
     let s := one { booted d with txFifo := [1, 2, 3], dispReq := true }
     s.Inv ∧ s.isr.ph = .idle ∧ s.pass.ph = .idle ∧ (0 : InstId).toNat < s.params.numInst ∧
       (s.uart 0).dispReq = true ∧ (s.uart 0).driver = some d) :=
  ⟨inv_of_ok (by decide), rfl, rfl, by decide, rfl, rfl⟩

/-- Flow control where there are no pins; an allocation that fails; both satisfied; already bound. -/
theorem witness_InitBindsInstance : State.reset.params.Wf ∧
    (TaskReady State.reset 1 ∧ (State.reset.uart 1).driver = none ∧ State.reset.fcSupported 1 = false) ∧
    (TaskReady { State.reset with allocOk := false } 0 ∧
      (({ State.reset with allocOk := false } : State).uart 0).driver = none) ∧
    (TaskReady State.reset 0 ∧ State.reset.fcSupported 0 = true ∧ State.reset.allocOk = true) ∧
    TaskReady idleState 0 ∧ (idleState.uart 0).driver ≠ none :=
  ⟨by decide, ⟨⟨rfl, by decide⟩, rfl, rfl⟩, ⟨⟨rfl, by decide⟩, rfl⟩, ⟨⟨rfl, by decide⟩, rfl, rfl⟩, ⟨rfl, by decide⟩,
    by decide⟩

theorem witness_DeinitUnbindsInstance :
    (TaskReady hazardState 0 ∧ (hazardState.uart 0).driver ≠ none ∧ hazardState.pass.ph ≠ .idle ∧
      hazardState.pass.inst = 0) ∧
    TaskReady idleState 0 ∧ (idleState.uart 0).driver ≠ none ∧ idleState.pass.ph = .idle :=
  ⟨⟨⟨rfl, by decide⟩, by decide, by decide, rfl⟩, ⟨rfl, by decide⟩, by decide, rfl⟩

/-- Without and with receive flow control. -/
theorem witness_SetrxenWritesFlagAndReadyLine :
    (TaskReady idleState 0 ∧ (idleState.uart 0).driver = some (drv [] [] []) ∧ (drv [] [] []).cfg.rxFc = false) ∧
    (let d := { drv [] [] [] with cfg := { rxFc := true, txFc := false, lingerUs := 0 } }
     TaskReady (one (booted d)) 0 ∧ ((one (booted d)).uart 0).driver = some d ∧ d.cfg.rxFc = true) :=
  ⟨⟨⟨rfl, by decide⟩, rfl, rfl⟩, ⟨rfl, by decide⟩, rfl, rfl⟩

theorem witness_FlushWaitsForTransmitFifo :
    (TaskReady idleState 0 ∧ (idleState.uart 0).driver ≠ none ∧ (idleState.uart 0).txFifo = []) ∧
    (let s := one { booted (drv [] [] []) with txFifo := [1] }
     TaskReady s 0 ∧ (s.uart 0).driver ≠ none ∧ (s.uart 0).txFifo ≠ []) :=
  ⟨⟨⟨rfl, by decide⟩, by decide, rfl⟩, ⟨rfl, by decide⟩, by decide, by decide⟩

/-- The last listed number, the first reserved one, every phase, an unbound and a bound instance. -/
theorem witness_RdcsrReadsTheTable :
    ((0x16 : Byte).toNat ≤ 0x16 ∧ 0x16 < (0x17 : Byte).toNat) ∧
    (∀ ph, TaskReady (inPass ph true 2 (booted (drv [] [] []))) 0 ∧ (inPass ph true 2 (booted (drv [] [] []))).pass.ph = ph ∧
      (inPass ph true 2 (booted (drv [] [] []))).pass.inst = 0) ∧
    (TaskReady hazardState 1 ∧ hazardState.pass.inst ≠ 1 ∧ (hazardState.uart 1).driver = none) ∧
    TaskReady idleState 0 ∧ idleState.pass.ph = .idle ∧ (idleState.uart 0).driver = some (drv [] [] []) :=
  ⟨by decide, fun _ => ⟨⟨rfl, (show (0 : InstId).toNat < Params.tc1.numInst by decide)⟩, rfl, rfl⟩, ⟨⟨rfl, by decide⟩, by decide, rfl⟩, ⟨rfl, by decide⟩, rfl, rfl⟩

/-- Disabled; below the trigger; at the trigger; full. -/
theorem witness_RxarriveQueuesOrLosesByte :
    (0 : InstId).toNat < Params.tc1.numInst ∧ (State.reset.uart 0).pen = false ∧ (idleState.uart 0).pen = true ∧
    ((idleState.uart 0).rxFifo.length < Params.tc1.hwRxDepth ∧
      (idleState.uart 0).rxFifo.length + 1 < Params.tc1.rxTrig) ∧
    ((drainState.uart 0).rxFifo.length < Params.tc1.hwRxDepth ∧
      Params.tc1.rxTrig ≤ (drainState.uart 0).rxFifo.length + 1) ∧
    Params.tc1.hwRxDepth ≤ ((one { booted (drv [] [] []) with rxFifo := [1, 2, 3, 4] }).uart 0).rxFifo.length := by
  decide

/-- For each of the three words, its condition false and true, at the levels where it changes. -/
theorem witness_StatusEventsSetTheirBit :
    (0 : InstId).toNat < Params.tc1.numInst ∧ (State.reset.uart 0).pen = false ∧
    ((idleState.uart 0).rxFifo = [] ∧ (hazardState.uart 0).pen = true ∧ (hazardState.uart 0).rxFifo ≠ []) ∧
    ((hazardState.uart 0).rxFifo.length < Params.tc1.rxTrig ∧
      Params.tc1.rxTrig ≤ ((one { booted (drv [] [] []) with rxFifo := [1, 2] }).uart 0).rxFifo.length) ∧
    (Params.tc1.txTrig < ((one { booted (drv [] [] []) with txFifo := [1, 2] }).uart 0).txFifo.length ∧
      ((one { booted (drv [] [] []) with txFifo := [1] }).uart 0).txFifo.length ≤ Params.tc1.txTrig) := by decide

/-- Nothing to send; a byte above the trigger; a byte that leaves the FIFO at the trigger. -/
theorem witness_TxshiftSendsOldestByte :
    (0 : InstId).toNat < Params.tc1.numInst ∧ (idleState.uart 0).txFifo = [] ∧
    (let s := one { booted (drv [] [] []) with txFifo := [1, 2, 3] }
     (s.uart 0).pen = true ∧ (s.uart 0).txFifo = 1 :: [2, 3] ∧ Params.tc1.txTrig < [2, 3].length) ∧
    (let s := one { booted (drv [] [] []) with txFifo := [1, 2] }
     (s.uart 0).pen = true ∧ (s.uart 0).txFifo = 1 :: [2] ∧ [2].length ≤ Params.tc1.txTrig) := by decide

theorem witness_PeripheralTouchesOnlyItsSide : (Instr.rxarrive 0 7).agent = .peripheral ∧
    (∃ t, exec (.rxarrive 0 7) drainState = .next t ∧ (t.uart 0).rxFifo = [0x41, 7]) ∧
    (drainState.uart 0).ris.getLsbD 0 = true := ⟨rfl, ⟨_, rfl, rfl⟩, by decide⟩

theorem witness_DisabledPeripheralIsInert :
    ((Instr.rxarrive 1 7).agent = .peripheral ∧ (1 : InstId).toNat < State.reset.params.numInst ∧
      (State.reset.uart 1).pen = false ∧ ∃ t, exec (.rxarrive 1 7) State.reset = .next t) ∧
    (∃ t, exec (.init 0 false false 0) State.reset = .next t ∧ (t.uart 0).pen ≠ (State.reset.uart 0).pen) ∧
    ∃ t, exec (.deinit 0) idleState = .next t ∧ (t.uart 0).pen ≠ (idleState.uart 0).pen :=
  ⟨⟨rfl, by decide, rfl, _, rfl⟩, ⟨_, rfl, by decide⟩, _, rfl, by decide⟩

/-- A bit set, and a bit cleared. -/
theorem witness_StatusBitsAreLatches :
    (∃ t, exec (.txlevel 0) idleState = .next t ∧ (idleState.uart 0).ris.getLsbD 2 = false ∧
      (t.uart 0).ris.getLsbD 2 = true) ∧
    ∃ t, exec (.intclr 0 1) (one { Uart.powerOn with ris := 1 }) = .next t ∧
      ((one { Uart.powerOn with ris := 1 }).uart 0).ris.getLsbD 0 = true ∧ (t.uart 0).ris.getLsbD 0 = false :=
  ⟨⟨_, rfl, by decide, by decide⟩, _, rfl, by decide, by decide⟩

/-- A bit set, and a bit cleared. -/
theorem witness_MaskBitsHaveTheirWriters :
    (∃ t, exec (.inten 0 1) State.reset = .next t ∧ (State.reset.uart 0).im.getLsbD 0 = false ∧
      (t.uart 0).im.getLsbD 0 = true) ∧
    ∃ t, exec (.deinit 0) idleState = .next t ∧ (idleState.uart 0).im.getLsbD 3 = true ∧
      (t.uart 0).im.getLsbD 3 = false :=
  ⟨⟨_, rfl, by decide, by decide⟩, _, rfl, by decide, by decide⟩

/-- `x` at `s` changes the counter `f` of instance 0, which stays bound. -/
def Counts (x : Instr) (s : State) (f : Stats → Word) : Prop :=
  ∃ t d e, exec x s = .next t ∧ (s.uart 0).driver = some d ∧ (t.uart 0).driver = some e ∧ f e.stats ≠ f d.stats

/-- Each of the seven counters changes somewhere; `rx_bytes` at `R1L` and at `R2`. -/
theorem witness_CountersHaveOneWriterEach :
    Counts (.istep 0) (inIsr .i2 1 0 (booted (drv [] [] []))) Stats.ints ∧
    Counts (.istep 0) (inIsr .i3 8 0 (booted (drv [] [] []))) Stats.rxOverflows ∧
    Counts (.istep 0) (inIsr .i4 2 0 (booted (drv [] [] []))) Stats.rxInts ∧
    Counts (.istep 0) (inIsr .i5 4 0 (booted (drv [] [] []))) Stats.txInts ∧
    Counts (.pstep 0) (inPass .r1l false 2 { booted (drv [1] [] []) with im := 8 }) Stats.rxBytes ∧
    Counts (.pstep 0) hazardState Stats.rxBytes ∧
    Counts (.pstep 0) (inPass .r3 true 1 { booted (drv [] [1] []) with rxFifo := [2] }) Stats.rxLingerConts ∧
    Counts (.pstep 0) (inPass .t1 false 0 (booted (drv [] [] [5]))) Stats.txBytes :=
  ⟨⟨_, _, _, rfl, rfl, rfl, by decide⟩, ⟨_, _, _, rfl, rfl, rfl, by decide⟩, ⟨_, _, _, rfl, rfl, rfl, by decide⟩,
    ⟨_, _, _, rfl, rfl, rfl, by decide⟩, ⟨_, _, _, rfl, rfl, rfl, by decide⟩, ⟨_, _, _, rfl, rfl, rfl, by decide⟩,
    ⟨_, _, _, rfl, rfl, rfl, by decide⟩, _, _, _, rfl, rfl, rfl, by decide⟩

theorem witness_RxBytesCountsBytesIntoMainBuffer : hazardState.Inv ∧ Instr.pstep 0 ≠ .rxget 0 ∧
    ∃ t d e, exec (.pstep 0) hazardState = .next t ∧ (hazardState.uart 0).driver = some d ∧
      (t.uart 0).driver = some e ∧ d.rxb.used < e.rxb.used :=
  ⟨inv_of_ok (by decide), by decide, _, _, _, rfl, rfl, rfl, by decide⟩

theorem witness_InstancesAreIsolated : (∃ t, exec (.pstep 0) hazardState = .next t) ∧ (1 : InstId) ≠ (Instr.pstep 0).inst :=
  ⟨⟨_, rfl⟩, by decide⟩

/-- A conserving word, an arrival, a byte read from the FIFO, a byte read from `RXB`, a `DEINIT`. -/
theorem witness_ReceivedBytesAreConserved :
    (hazardState.Inv ∧ ∃ t, exec (.pstep 0) hazardState = .next t) ∧
    (∃ t, exec (.rxarrive 0 7) hazardState = .next t) ∧
    (∃ t, exec (.rdbyte 0) hazardState = .next t ∧ t.reply = .ok (some 2)) ∧
    ((one (booted (drv [] [0x48] []))).Inv ∧ ∃ t, exec (.rxget 0) (one (booted (drv [] [0x48] []))) = .next t ∧
      t.reply = .ok (some 0x148) ∧ (0x148 : Word) ≠ 0) ∧
    idleState.Inv ∧ ∃ t, exec (.deinit 0) idleState = .next t ∧ t.reply = .ok none :=
  ⟨⟨inv_of_ok (by decide), _, rfl⟩, ⟨_, rfl⟩, ⟨_, rfl, by decide⟩, ⟨inv_of_ok (by decide), _, rfl, by decide, by decide⟩,
    inv_of_ok (by decide), _, rfl, rfl⟩

/-- A handler word with a byte to move, also while the pass on its instance is at `R2` with `AUX` not empty; a pass word at
`R2` with a move due and `AUX` empty, and with no move due and `AUX` not empty (`RXB` full as in V43-5; FIFO empty). -/
theorem witness_StreamOrderIsKept :
    (drainState.Inv ∧ (∃ t, exec (.istep 0) drainState = .next t) ∧ (Instr.istep 0).agent = .interrupt) ∧
    (let s := { inPass .r2 true 2 { booted (drv [1] [] []) with rxFifo := [2] } with
        isr := { ph := .i4l, inst := 0, snap := 0b0001, dis := 0, fired := true } }
     s.Inv ∧ (∃ t, exec (.istep 0) s = .next t) ∧ Instr.istep 0 ≠ .pstep s.pass.inst) ∧
    (∀ s, s = inPass .r2 false 2 { booted (drv [] [] []) with rxFifo := [2] } ∨
        s = inPass .r2 true 0 { booted (drv [1] [1, 2, 3, 4, 5, 6, 7, 8] []) with rxFifo := [2] } ∨
        s = inPass .r2 true 2 (booted (drv [1] [] [])) →
      s.Inv ∧ (∃ t, exec (.pstep 0) s = .next t) ∧ (Instr.pstep 0).agent = .dispatch ∧ s.pass.inst = 0 ∧
        s.isr.ph = .idle ∧ s.pass.ph = .r2 ∧ ∀ d, (s.uart 0).driver = some d → (s.uart 0).rxFifo ≠ [] →
          0 < d.rxb.avail → d.aux.used = 0) := by
  refine ⟨⟨inv_of_ok (by decide), ⟨_, rfl⟩, rfl⟩, ⟨inv_of_ok (by decide), ⟨_, rfl⟩, by decide⟩, ?_⟩
  rintro s (rfl | rfl | rfl) <;> refine ⟨inv_of_ok (by decide), ⟨_, rfl⟩, rfl, rfl, rfl, rfl, fun d h => ?_⟩ <;>
    cases h <;> decide

/-- The drain is ordered with `AUX` empty and room, and with `AUX` not empty and `RXB` full; a handler word at each. -/
theorem witness_StreamOrderIsKept_drainOrdered :
    (let s := inPass .r2 false 2 { booted (drv [] [] []) with rxFifo := [2] }
     s.Inv ∧ s.drainOrdered ∧ s.pass.ph = .r2 ∧ (s.uart s.pass.inst).driver = some (drv [] [] []) ∧
       0 < (drv [] [] []).rxb.avail ∧ ∃ t, exec (.pstep 0) s = .next t) ∧
    (let s := { inPass .r3 true 0 (booted (drv [1] [1, 2, 3, 4, 5, 6, 7, 8] [])) with
        isr := { ph := .i4l, inst := 0, snap := 0b0001, dis := 0, fired := true } }
     s.Inv ∧ s.drainOrdered ∧ (s.uart s.pass.inst).rxFifo = [] ∧ ∃ t, exec (.istep 0) s = .next t) := by
  refine ⟨⟨inv_of_ok (by decide), fun _ d h => ?_, rfl, rfl, by decide, _, rfl⟩,
    inv_of_ok (by decide), fun _ d h => ?_, rfl, _, rfl⟩ <;> cases h <;> decide

end Sys2Proof.Tests
end

section
/-! PROOFS. The three outcomes of a word (00_scope.md R14). `HasOutcome s r` says once what the answer `r` to a word
applied at `s` can be; `exec_hasOutcome` says that every operation answers so, and what R14 says of a hold and of the
model's own stops is read off it. -/

namespace Sys2Proof.Machine

variable {s t : State} {i : InstId} {k r : Result}

/-- What a word applied at `s` can come to: ok in some state, a hold or a fault AT `s`, so that neither has written
anything before, or one of the model's own stops (log 13), and that only where the invariant fails. -/
inductive HasOutcome (s : State) : Result → Prop where
  | ok (u : State) : HasOutcome s u.ok
  | okWith (u : State) (v : Word) : HasOutcome s (u.okWith v)
  | hold : HasOutcome s s.hold
  | raise (c : FaultCode) : HasOutcome s (s.raise c)
  | stop (f : Fault) (h : ¬ s.Inv) : HasOutcome s (.fault f)

namespace HasOutcome

/-! ## What an outcome says of the next state -/

/-- The next state reports ok, or is `s` with a hold or a fault reported. -/
theorem next_cases (h : HasOutcome s r) (hr : r = .next t) :
    (∃ v, t.reply = .ok v) ∨ t = s.setReply .hold ∨
      ∃ c, t = { s with fault := if s.fault = 0 then c.code else s.fault, reply := .fault c } := by
  cases h with
  | ok u => exact .inl ⟨none, by rw [State.ok_next hr, State.setReply_reply]⟩
  | okWith u v => exact .inl ⟨some v, by rw [State.okWith_next hr, State.setReply_reply]⟩
  | hold => exact .inr (.inl (State.hold_next hr))
  | raise c => exact .inr (.inr ⟨c, State.raise_next hr⟩)
  | stop f _ => cases hr

theorem eq_of_reply_hold (h : HasOutcome s r) (hr : r = .next t) (ht : t.reply = .hold) :
    t = s.setReply .hold := by
  obtain ⟨v, hok⟩ | hhold | ⟨c, rfl⟩ := h.next_cases hr
  · rw [hok] at ht; cases ht
  · exact hhold
  · cases ht

theorem exists_next_of_inv (h : HasOutcome s r) (hs : s.Inv) : ∃ t, r = .next t ∧ t.reply ≠ .none := by
  cases h with
  | ok u => exact ⟨_, rfl, nofun⟩
  | okWith u v => exact ⟨_, rfl, nofun⟩
  | hold => exact ⟨_, rfl, nofun⟩
  | raise c => exact ⟨_, rfl, nofun⟩
  | stop f hn => exact absurd hs hn

/-! ## The checks keep it (60_exceptions.md R233) -/

theorem ite {p : Prop} [Decidable p] {a b : Result} (ha : HasOutcome s a) (hb : HasOutcome s b) :
    HasOutcome s (if p then a else b) := by
  split <;> assumption

theorem inTask (h : HasOutcome s k) : HasOutcome s (s.inTask k) := ite hold h

theorem onInst (h : HasOutcome s k) : HasOutcome s (s.onInst i k) := ite h (raise _)

theorem withLock (h : HasOutcome s k) : HasOutcome s (s.withLock k) := ite hold h

theorem onBound {f : Driver → Result} (h : ∀ d, HasOutcome s (f d)) : HasOutcome s (s.onBound i f) := by
  cases hd : (s.uart i).driver with
  | none => rw [State.onBound_none hd]; exact raise _
  | some d => rw [State.onBound_some hd]; exact h d

/-- A micro-operation stops for want of a driver only where the invariant, which binds its UART, fails. -/
theorem needDriver {f : Driver → Result} (hb : s.Inv → s.bound i = true)
    (h : ∀ d, (s.uart i).driver = some d → HasOutcome s (f d)) : HasOutcome s (s.needDriver i f) := by
  cases hd : (s.uart i).driver with
  | none =>
    have hstop : s.needDriver i f = .fault .driverMissing := by simp [State.needDriver, hd]
    rw [hstop]
    have hunbound : s.bound i = false := by simp [State.bound, hd]
    exact stop _ fun hs => Bool.false_ne_true (hunbound.symm.trans (hb hs))
  | some d => rw [State.needDriver_some hd]; exact h d hd

end HasOutcome

/-! ## The interrupt handler (42_interrupt_handler.md) -/

theorem enterHandler_hasOutcome : HasOutcome s (s.enterHandler i) := by
  unfold State.enterHandler
  split
  · exact .ok _
  · exact .ok _

theorem handlerI4L_hasOutcome (hb : s.Inv → s.bound i = true) : HasOutcome s (handlerI4L i s) :=
  .needDriver hb fun d _ => by
    split
    · exact .ite (.ok _) (.ok _)
    · exact .ite (.ok _) (.ok _)

theorem handlerStep_hasOutcome (ph : IsrPh) (hb : s.Inv → s.bound i = true) :
    HasOutcome s (handlerStep ph i s) := by
  cases ph with
  | idle => exact enterHandler_hasOutcome
  | i2 => exact .needDriver hb fun _ _ => .ok _
  | i3 => exact .ite (.needDriver hb fun _ _ => .ok _) (.ok _)
  | i4 => exact .ite (.needDriver hb fun _ _ => .ok _) (.ok _)
  | i4l => exact handlerI4L_hasOutcome hb
  | i5 => exact .ite (.needDriver hb fun _ _ => .ok _) (.ok _)
  | i6 => exact .ite (.ok _) (.ok _)
  | i7a => exact .ok _
  | i7b => exact .ok _

/-- R142: a handler in flight serves a bound UART (60_exceptions.md R245), so no micro-operation lacks its driver. -/
theorem execIstep_hasOutcome : HasOutcome s (execIstep i s) := by
  refine .onInst ?_
  split
  · exact .ite enterHandler_hasOutcome .hold
  · next hph =>
    split
    · exact .hold
    · next hi =>
      have hi : s.isr.inst = i := not_not.mp hi
      exact handlerStep_hasOutcome _ fun hs => hi ▸ (hs.isrBound hph).2

/-! ## The dispatch pass (43_dispatch.md) -/

theorem passD0_hasOutcome : HasOutcome s (passD0 i s) := by
  unfold passD0
  split
  · exact .ok _
  · exact .ok _

theorem passR2_hasOutcome (hb : s.Inv → s.bound i = true) : HasOutcome s (passR2 i s) :=
  .needDriver hb fun d _ => by
    split
    · exact .ite (.ok _) (.ok _)
    · exact .ok _

/-- A buffer that holds a byte shows one (41_ring_buffer.md R123). -/
theorem Ring.Wf.viewBytes_one_ne_nil {cap : Nat} {b : Ring} (h : b.Wf cap) (hu : 0 < b.used) :
    b.viewBytes 1 ≠ [] := by
  have hpos : 0 < (b.getView 1).2 := (Ring.getView_count_pos h).2 ⟨Nat.one_pos, hu⟩
  exact List.ne_nil_of_length_pos (by rwa [Ring.viewBytes_length])

/-- R172: where `TXB` is well formed (10_state.md R44) its oldest byte has a slot. -/
theorem passT1_hasOutcome (hb : s.Inv → s.bound i = true) : HasOutcome s (passT1 i s) :=
  .needDriver hb fun d hd => by
    split
    · next hmove =>
      split
      · next hnil =>
        exact .stop _ fun hs => ((hs.uarts i).driver d hd).txb.viewBytes_one_ne_nil hmove.1 hnil
      · exact .ok _
    · exact .ok _

theorem passStep_hasOutcome (ph : PassPh) (hb : s.Inv → s.bound i = true) : HasOutcome s (passStep ph i s) := by
  cases ph with
  | idle => exact passD0_hasOutcome
  | r1 => exact .needDriver hb fun _ _ => .ite (.ok _) (.ok _)
  | r1l => exact .needDriver hb fun _ _ => .ite (.ok _) (.ite (.raise _) (.ok _))
  | r2 => exact passR2_hasOutcome hb
  | r3 => exact .needDriver hb fun _ _ => .ite (.ite (.ok _) (.ok _)) (.ok _)
  | r4 => exact .ok _
  | t1 => exact passT1_hasOutcome hb
  | t2 => exact .ok _
  | b1 => exact .needDriver hb fun _ _ => .ok _

/-- R161: a pass in flight is on a bound UART (44_host_lifecycle.md R204), so no micro-operation lacks its driver. -/
theorem execPstep_hasOutcome : HasOutcome s (execPstep i s) := by
  refine .inTask (.onInst ?_)
  split
  · exact .ite passD0_hasOutcome .hold
  · next hph =>
    split
    · exact .hold
    · next hi =>
      have hi : s.pass.inst = i := not_not.mp hi
      exact passStep_hasOutcome _ fun hs => hi ▸ (hs.passBound hph).2

/-! ## Every operation -/

theorem execRdbyte_hasOutcome : HasOutcome s (execRdbyte i s) :=
  .inTask <| .onInst <| by
    split
    · exact .raise _
    · exact .okWith _ _

theorem execRxget_hasOutcome : HasOutcome s (execRxget i s) :=
  .inTask <| .onInst <| .onBound fun d => .withLock <| by
    split
    · exact .okWith _ _
    · exact .okWith _ _

theorem execRdcsr_hasOutcome {n : Byte} : HasOutcome s (execRdcsr i n s) := by
  unfold execRdcsr
  split
  · exact .raise _
  · exact .inTask <| .onInst <| .okWith _ _
  · exact .inTask <| .onInst <| .onBound fun _ => .okWith _ _

theorem execTxshift_hasOutcome : HasOutcome s (execTxshift i s) :=
  .onInst <| by
    split
    · exact .hold
    · exact .ite .hold (.okWith _ _)

/-- R14: every operation, in every state, ends ok, holds or faults, or stops where the invariant fails. -/
theorem exec_hasOutcome (x : Instr) (s : State) : HasOutcome s (exec x s) := by
  cases x with
  | bavail i => exact .inTask <| .onInst <| .okWith _ _
  | rdbyte i => exact execRdbyte_hasOutcome
  | savail i => exact .inTask <| .onInst <| .okWith _ _
  | wrbyte i b => exact .inTask <| .onInst <| .ite (.raise _) (.ok _)
  | intstat i f => exact .inTask <| .onInst <| .okWith _ _
  | inten i m => exact .inTask <| .onInst <| .ok _
  | intdis i m => exact .inTask <| .onInst <| .ok _
  | intclr i m => exact .inTask <| .onInst <| .ok _
  | busy i => exact .inTask <| .onInst <| .okWith _ _
  | txput i b => exact .inTask <| .onInst <| .onBound fun _ => .withLock <| .okWith _ _
  | rxget i => exact execRxget_hasOutcome
  | irq i => exact .onInst <| .ite .hold enterHandler_hasOutcome
  | istep i => exact execIstep_hasOutcome
  | dispatch i => exact .inTask <| .onInst <| .onBound fun _ => .ok _
  | pstep i => exact execPstep_hasOutcome
  | init i rxFc txFc l =>
    exact .inTask <| .ite (.okWith _ _) <| .ite (.raise _) <| .ite (.okWith _ _) <| .ite (.okWith _ _) (.okWith _ _)
  | deinit i => exact .inTask <| .onInst <| .onBound fun _ => .ite (.raise _) (.ok _)
  | setrxen i f => exact .inTask <| .onInst <| .onBound fun _ => .ok _
  | flush i => exact .inTask <| .onInst <| .onBound fun _ => .ite .hold (.ok _)
  | rdcsr i n => exact execRdcsr_hasOutcome
  | rxarrive i b => exact .onInst <| .ite (.ok _) <| .ite (.ok _) (.ok _)
  | rxtimeout i => exact .onInst <| .ite .hold (.ok _)
  | rxlevel i => exact .onInst <| .ite .hold (.ok _)
  | txshift i => exact execTxshift_hasOutcome
  | txlevel i => exact .onInst <| .ite .hold (.ok _)

/-- Settles O13: of the outcomes an operation can have, only a hold reports one, and it reports it at `s` itself. -/
theorem heldWordChangesNothing : Obligations.HeldWordChangesNothing := fun x s _ ht hr =>
  (exec_hasOutcome x s).eq_of_reply_hold ht hr

/-! ## A step by what is on the port (logs 2 to 5) -/

theorem step_of_port_nil (h : s.port = []) : step s = .next s := by
  simp only [step, State.takeWord_nil h]

theorem step_of_decode_ok {p : PortWord} {rest : List PortWord} {x : Instr} (h : s.port = p :: rest)
    (hx : decode p.word = .ok x) : step s = exec x { s with port := rest, allocOk := p.allocOk } := by
  simp only [step, State.takeWord_cons h, hx]

theorem step_of_decode_error {p : PortWord} {rest : List PortWord} {e : DecodeError} (h : s.port = p :: rest)
    (he : decode p.word = .error e) :
    step s = State.applyIllegal { s with port := rest, allocOk := p.allocOk } := by
  simp only [step, State.takeWord_cons h, he]

/-- Settles O5: the first word leaves the port, with its draw, and is decoded. -/
theorem stepRunsDecodedWord : Obligations.StepRunsDecodedWord := fun _ _ _ _ hport hx =>
  step_of_decode_ok hport hx

/-- The invariant says nothing of the port and of the draw. -/
theorem State.Inv.withPort (h : s.Inv) (rest : List PortWord) (a : Bool) :
    State.Inv { s with port := rest, allocOk := a } where
  params := h.params
  uarts := h.uarts
  absent := h.absent
  isrBound := h.isrBound
  isrDrain := h.isrDrain
  isrFired := h.isrFired
  isrDis := h.isrDis
  passBound := h.passBound
  passLinger := h.passLinger
  passRecd := h.passRecd
  fault := h.fault

theorem step_next_of_inv (h : s.Inv) : ∃ t, step s = .next t := by
  cases hp : s.port with
  | nil => exact ⟨s, step_of_port_nil hp⟩
  | cons p rest =>
    cases hd : decode p.word with
    | error e => exact ⟨_, step_of_decode_error hp hd⟩
    | ok x =>
      obtain ⟨t, ht, _⟩ := (exec_hasOutcome x _).exists_next_of_inv (h.withPort rest p.allocOk)
      exact ⟨t, (step_of_decode_ok hp hd).trans ht⟩

/-- Settles O11: the invariant rules out both of the model's stops, a missing driver (60_exceptions.md R245) and a
missing slot (10_state.md R44), and an operation that does not stop reports ok, hold or fault. -/
theorem invariantStatesNeverStop : Obligations.InvariantStatesNeverStop := fun s hs =>
  ⟨step_next_of_inv hs, fun x => (exec_hasOutcome x s).exists_next_of_inv hs⟩

end Sys2Proof.Machine
end

section
/-! PROOFS. What an operation can write. `UartStep`, `IsrStep` and `PassStep` list once, a constructor for each effect
of the rules, what an operation can make of the UART it names, of the interrupt sequencer and of the dispatch sequencer;
`exec_writes` says that no operation does more. Facts about every operation are read off these lists. -/

namespace Sys2Proof.Machine

/-! ## The effects of the rules -/

/-- The counters after the micro-operation of the handler that `ph` names (42_interrupt_handler.md R144 to R148). -/
def Stats.countedAt (c : Stats) : IsrPh → Stats
  | .i2 => { c with ints := inc32 c.ints }
  | .i3 => { c with rxOverflows := inc32 c.rxOverflows }
  | .i4 => { c with rxInts := inc32 c.rxInts }
  | .i5 => { c with txInts := inc32 c.txInts }
  | .idle | .i4l | .i6 | .i7a | .i7b => c

/-- What an operation applied at `s` can make of the UART it names. -/
inductive UartStep (s : State) : Instr → Uart → Prop where
  | keep {x} : UartStep s x (s.uart x.inst)
  /-- `disp_req` is written by `DISPATCH`, `I6` and `D0`. -/
  | request {x} (b : Bool) : UartStep s x { s.uart x.inst with dispReq := b }
  | rdbyte {i b q} (hq : (s.uart i).rxFifo = b :: q) : UartStep s (.rdbyte i) { s.uart i with rxFifo := q }
  | wrbyte {i b} (hroom : (s.uart i).txFifo.length ≠ s.params.hwTxDepth) :
      UartStep s (.wrbyte i b) { s.uart i with txFifo := (s.uart i).txFifo ++ [b] }
  | inten {i m} : UartStep s (.inten i m) { s.uart i with im := setBits (s.uart i).im m }
  | intdis {i m} : UartStep s (.intdis i m) { s.uart i with im := clearBits (s.uart i).im m }
  | intclr {i m} : UartStep s (.intclr i m) { s.uart i with ris := clearBits (s.uart i).ris m }
  | txput {i b d} (hd : (s.uart i).driver = some d) :
      UartStep s (.txput i b) { s.uart i with driver := some { d with txb := (d.txb.append b).1 } }
  | rxget {i d b l} (hd : (s.uart i).driver = some d) (hview : d.rxb.viewBytes 1 = b :: l) :
      UartStep s (.rxget i) { s.uart i with driver := some { d with rxb := d.rxb.consume 1 } }
  | init {i rxFc txFc l} (hd : (s.uart i).driver = none) (hfc : (rxFc || txFc) = true → s.fcSupported i = true) :
      UartStep s (.init i rxFc txFc l) { s.uart i with
        driver := some (Driver.fresh s.params { rxFc := rxFc, txFc := txFc, lingerUs := l } s.draws)
        pen := true
        im := 0 }
  | deinit {i} (hisr : s.isr.ph = .idle) (hpass : s.passOn i = false) :
      UartStep s (.deinit i) { s.uart i with pen := false, im := 0, driver := none }
  | setrxen {i f d} (hd : (s.uart i).driver = some d) :
      UartStep s (.setrxen i f) { s.uart i with
        driver := some { d with rxEnabled := f }
        rtr := if f then (if d.cfg.rxFc then true else (s.uart i).rtr) else false }
  | rxarrive {i b} (hroom : (s.uart i).rxFifo.length < s.params.hwRxDepth) :
      UartStep s (.rxarrive i b) { s.uart i with
        rxFifo := (s.uart i).rxFifo ++ [b]
        ris := if s.params.rxTrig ≤ (s.uart i).rxFifo.length + 1 then setBits (s.uart i).ris maskRx
               else (s.uart i).ris }
  | rxlost {i b} : UartStep s (.rxarrive i b) { s.uart i with
        rxLost := (s.uart i).rxLost + 1
        ris := setBits (s.uart i).ris maskOe }
  | rxtimeout {i} : UartStep s (.rxtimeout i) { s.uart i with ris := setBits (s.uart i).ris maskRt }
  | rxlevel {i} : UartStep s (.rxlevel i) { s.uart i with ris := setBits (s.uart i).ris maskRx }
  | txshift {i b q} (hq : (s.uart i).txFifo = b :: q) :
      UartStep s (.txshift i) { s.uart i with
        txFifo := q
        txLine := (s.uart i).txLine ++ [b]
        ris := if q.length ≤ s.params.txTrig then setBits (s.uart i).ris maskTx else (s.uart i).ris }
  | txlevel {i} : UartStep s (.txlevel i) { s.uart i with ris := setBits (s.uart i).ris maskTx }
  /-- The counting micro-operations, `I2`, `I3`, `I4` and `I5`. -/
  | count {i d c} (hd : (s.uart i).driver = some d) (hc : c = d.stats.countedAt s.isr.ph) :
      UartStep s (.istep i) { s.uart i with driver := some { d with stats := c } }
  | i4l {i d b q} (hd : (s.uart i).driver = some d) (hq : (s.uart i).rxFifo = b :: q) (hroom : 0 < d.aux.avail)
      (hph : s.isr.ph = .i4l) :
      UartStep s (.istep i) { s.uart i with rxFifo := q, driver := some { d with aux := (d.aux.append b).1 } }
  | i7a {i} (hph : s.isr.ph = .i7a) :
      UartStep s (.istep i) { s.uart i with im := clearBits (s.uart i).im s.isr.dis }
  | i7b {i} (hph : s.isr.ph = .i7b) :
      UartStep s (.istep i) { s.uart i with ris := clearBits (s.uart i).ris s.isr.snap }
  | r1 {i} (hph : s.pass.ph = .r1) : UartStep s (.pstep i) { s.uart i with im := clearBits (s.uart i).im rxInts }
  | r1l {i d} (hd : (s.uart i).driver = some d) (hph : s.pass.ph = .r1l) :
      UartStep s (.pstep i) { s.uart i with driver := some (d.moveAux (min d.rxb.avail d.aux.used)) }
  | r2 {i d b q} (hd : (s.uart i).driver = some d) (hq : (s.uart i).rxFifo = b :: q) (hroom : 0 < d.rxb.avail)
      (hph : s.pass.ph = .r2) :
      UartStep s (.pstep i) { s.uart i with
        rxFifo := q
        driver := some { d with
          rxb := (d.rxb.append b).1
          stats := { d.stats with rxBytes := inc32 d.stats.rxBytes } } }
  | r3 {i d} (hd : (s.uart i).driver = some d) (hph : s.pass.ph = .r3) :
      UartStep s (.pstep i) { s.uart i with
        driver := some { d with stats := { d.stats with rxLingerConts := inc32 d.stats.rxLingerConts } } }
  | r4 {i} (hph : s.pass.ph = .r4) : UartStep s (.pstep i) { s.uart i with ris := clearBits (s.uart i).ris rxInts }
  | t1 {i d b l} (hd : (s.uart i).driver = some d) (hroom : (s.uart i).txFifo.length < s.params.hwTxDepth)
      (hview : d.txb.viewBytes 1 = b :: l) (hph : s.pass.ph = .t1) :
      UartStep s (.pstep i) { s.uart i with
        txFifo := (s.uart i).txFifo ++ [b]
        driver := some { d with
          txb := d.txb.consume 1
          stats := { d.stats with txBytes := inc32 d.stats.txBytes } } }
  | t2 {i} (hph : s.pass.ph = .t2) : UartStep s (.pstep i) { s.uart i with ris := clearBits (s.uart i).ris txInts }
  | b1 {i d} (hd : (s.uart i).driver = some d) (hph : s.pass.ph = .b1) :
      UartStep s (.pstep i) { s.uart i with
        im := setBits (s.uart i).im (rearmMask d.rxEnabled (0 < d.aux.avail) (0 < d.txb.used)) }

/-- What an operation applied at `s` can make of the interrupt sequencer. -/
inductive IsrStep (s : State) (x : Instr) : Isr → Prop where
  | keep : IsrStep s x s.isr
  | enter (hx : x = .irq x.inst ∨ x = .istep x.inst) (hi : s.hasInst x.inst = true)
      (hb : s.bound x.inst = true) :
      IsrStep s x { ph := .i2, inst := x.inst, snap := (s.uart x.inst).mis, dis := 0, fired := false }
  | i2 (hph : s.isr.ph = .i2) : IsrStep s x { s.isr with ph := .i3 }
  | i3_fire (hph : s.isr.ph = .i3) (ht : anyBits s.isr.snap maskOe = true) :
      IsrStep s x { s.isr with ph := .i4, fired := true }
  | i3_pass (hph : s.isr.ph = .i3) (ht : anyBits s.isr.snap maskOe = false) : IsrStep s x { s.isr with ph := .i4 }
  | i4_fire (hph : s.isr.ph = .i4) (ht : anyBits s.isr.snap rxInts = true) :
      IsrStep s x { s.isr with ph := .i4l, fired := true }
  | i4_pass (hph : s.isr.ph = .i4) (ht : anyBits s.isr.snap rxInts = false) : IsrStep s x { s.isr with ph := .i5 }
  | i4l_full (hph : s.isr.ph = .i4l) : IsrStep s x { s.isr with ph := .i5, dis := setBits s.isr.dis rxInts }
  | i4l_done (hph : s.isr.ph = .i4l) : IsrStep s x { s.isr with ph := .i5 }
  | i5_fire (hph : s.isr.ph = .i5) (ht : anyBits s.isr.snap maskTx = true) :
      IsrStep s x { s.isr with ph := .i6, dis := setBits s.isr.dis txInts, fired := true }
  | i5_pass (hph : s.isr.ph = .i5) (ht : anyBits s.isr.snap maskTx = false) : IsrStep s x { s.isr with ph := .i6 }
  | i6 (hph : s.isr.ph = .i6) : IsrStep s x { s.isr with ph := .i7a }
  | i7a (hph : s.isr.ph = .i7a) : IsrStep s x { s.isr with ph := .i7b }
  | leave (n : Nat) : IsrStep s x (idleIsr n)

/-- The phases a pass can go on to with nothing else of its sequencer written (10_state.md R39). -/
def PassPh.goesTo : PassPh → PassPh → Bool
  | .r1, .r1l | .r1, .r2 | .r1l, .r2 | .r2, .r3 | .r3, .r4 | .r4, .t1 | .t1, .t2 | .t2, .b1 => true
  | _, _ => false

/-- What an operation applied at `s` can make of the dispatch sequencer. -/
inductive PassStep (s : State) (x : Instr) : Pass → Prop where
  | keep : PassStep s x s.pass
  | take {d : Driver} (hx : x = .pstep x.inst) (hi : s.hasInst x.inst = true)
      (hd : (s.uart x.inst).driver = some d) :
      PassStep s x
        { ph := .r1, inst := x.inst, recd := false, lingerLeft := d.cfg.lingerUs.toNat * s.params.itersPerUs }
  | advance {p : PassPh} (hp : s.pass.ph.goesTo p = true) : PassStep s x { s.pass with ph := p }
  | received (hph : s.pass.ph = .r1l ∨ s.pass.ph = .r2) : PassStep s x { s.pass with recd := true }
  | poll_hit (hph : s.pass.ph = .r3) : PassStep s x { s.pass with ph := .r2, lingerLeft := s.pass.lingerLeft - 1 }
  | poll_miss (hph : s.pass.ph = .r3) : PassStep s x { s.pass with lingerLeft := s.pass.lingerLeft - 1 }
  | leave (n : Nat) : PassStep s x (idlePass n)

/-- `w` differs from `s` only as the operation `x` may write: `FAULT`, the port and the reply aside. -/
structure Writes (s : State) (x : Instr) (w : State) : Prop where
  uart : UartStep s x (w.uart x.inst)
  others : ∀ j, j ≠ x.inst → w.uart j = s.uart j
  absent : s.hasInst x.inst = false → w.uart x.inst = s.uart x.inst
  isr : IsrStep s x w.isr
  pass : PassStep s x w.pass
  params : w.params = s.params

variable {s t w : State} {x : Instr} {i : InstId} {k r : Result}

namespace Writes

theorem nothing : Writes s x s := ⟨.keep, fun _ _ => rfl, fun _ => rfl, .keep, .keep, rfl⟩

theorem setUart {u : Uart} (hi : s.hasInst x.inst = true) (hu : UartStep s x u) : Writes s x (s.setUart x.inst u) where
  uart := by rwa [State.uart_setUart_self]
  others _ hj := State.uart_setUart_ne s u hj
  absent hn := by rw [hi] at hn; cases hn
  isr := .keep
  pass := .keep
  params := rfl

theorem setIsr {y : Isr} (h : Writes s x w) (hy : IsrStep s x y) : Writes s x (w.setIsr y) :=
  ⟨h.uart, h.others, h.absent, hy, h.pass, h.params⟩

theorem setPass {z : Pass} (h : Writes s x w) (hz : PassStep s x z) : Writes s x (w.setPass z) :=
  ⟨h.uart, h.others, h.absent, h.isr, hz, h.params⟩

theorem drew (h : Writes s x w) (n : Nat) : Writes s x (w.drew n) :=
  ⟨h.uart, h.others, h.absent, h.isr, h.pass, h.params⟩

theorem setReply (h : Writes s x w) (o : Reply) : Writes s x (w.setReply o) :=
  ⟨h.uart, h.others, h.absent, h.isr, h.pass, h.params⟩

end Writes

/-! ## The answers of an operation -/

/-- `FAULT` after a word that found it at `f` and replies so (10_state.md R23, 60_exceptions.md R232). -/
def Reply.faultAfter (f : Word) : Reply → Word
  | .fault c => if f = 0 then c.code else f
  | .none | .ok _ | .hold => f

/-- If the operation `x`, applied at `s`, answers `r` and `r` is a next state, that state is one `x` may write. -/
def Effects (s : State) (x : Instr) (r : Result) : Prop :=
  ∀ t, r = .next t → Writes s x t ∧ t.fault = t.reply.faultAfter s.fault

namespace Effects

theorem ok (h : Writes s x w) (hf : w.fault = s.fault := by rfl) : Effects s x w.ok := by
  intro t ht
  obtain rfl := State.ok_next ht
  exact ⟨h.setReply _, hf⟩

theorem okWith {v : Word} (h : Writes s x w) (hf : w.fault = s.fault := by rfl) : Effects s x (w.okWith v) := by
  intro t ht
  obtain rfl := State.okWith_next ht
  exact ⟨h.setReply _, hf⟩

theorem hold : Effects s x s.hold := by
  intro t ht
  obtain rfl := State.hold_next ht
  exact ⟨Writes.nothing.setReply _, rfl⟩

theorem raise {c : FaultCode} : Effects s x (s.raise c) := by
  intro t ht
  obtain rfl := State.raise_next ht
  exact ⟨⟨.keep, fun _ _ => rfl, fun _ => rfl, .keep, .keep, rfl⟩, rfl⟩

theorem stop {f : Fault} : Effects s x (.fault f) := fun _ ht => by cases ht

/-- A word that only reads. -/
theorem reads {v : Word} : Effects s x (s.okWith v) := .okWith .nothing

theorem ite {p : Prop} [Decidable p] {a b : Result} (ha : p → Effects s x a) (hb : ¬ p → Effects s x b) :
    Effects s x (if p then a else b) := by
  by_cases hp : p
  · rw [if_pos hp]; exact ha hp
  · rw [if_neg hp]; exact hb hp

theorem inTask (h : s.isr.ph = .idle → Effects s x k) : Effects s x (s.inTask k) :=
  .ite (fun _ => hold) fun hp => h (not_not.mp hp)

theorem onInst (h : s.hasInst i = true → Effects s x k) : Effects s x (s.onInst i k) := .ite h fun _ => raise

theorem withLock (h : Effects s x k) : Effects s x (s.withLock k) := .ite (fun _ => hold) fun _ => h

theorem onBound {f : Driver → Result} (h : ∀ d, (s.uart i).driver = some d → Effects s x (f d)) :
    Effects s x (s.onBound i f) := by
  cases hd : (s.uart i).driver with
  | none => rw [State.onBound_none hd]; exact raise
  | some d => rw [State.onBound_some hd]; exact h d hd

theorem needDriver {f : Driver → Result} (h : ∀ d, (s.uart i).driver = some d → Effects s x (f d)) :
    Effects s x (s.needDriver i f) := fun t ht => by
  obtain ⟨d, hd, hf⟩ := State.needDriver_next ht
  exact h d hd t hf

end Effects

/-! ## The interrupt handler (42_interrupt_handler.md) -/

theorem enterHandler_effects (hx : x = .irq x.inst ∨ x = .istep x.inst) (hi : s.hasInst x.inst = true) :
    Effects s x (s.enterHandler x.inst) := by
  unfold State.enterHandler
  split
  · exact .ok .nothing
  · next d hd => exact .ok (.setIsr .nothing (.enter hx hi (State.bound_iff.mpr ⟨d, hd⟩)))

section Handler

variable (hi : s.hasInst i = true)
include hi

theorem handlerI2_effects (hph : s.isr.ph = .i2) : Effects s (.istep i) (handlerI2 i s) :=
  .needDriver fun _ hd => .ok (.setIsr (.setUart hi (.count hd (by rw [hph]; rfl))) (.i2 hph))

theorem handlerI3_effects (hph : s.isr.ph = .i3) : Effects s (.istep i) (handlerI3 i s) :=
  .ite (fun ht => .needDriver fun _ hd =>
      .ok (.setIsr (.setUart hi (.count hd (by rw [hph]; rfl))) (.i3_fire hph ht)))
    fun ht => .ok (.setIsr .nothing (.i3_pass hph (eq_false_of_ne_true ht)))

theorem handlerI4_effects (hph : s.isr.ph = .i4) : Effects s (.istep i) (handlerI4 i s) :=
  .ite (fun ht => .needDriver fun _ hd =>
      .ok (.setIsr (.setUart hi (.count hd (by rw [hph]; rfl))) (.i4_fire hph ht)))
    fun ht => .ok (.setIsr .nothing (.i4_pass hph (eq_false_of_ne_true ht)))

theorem handlerI4L_effects (hph : s.isr.ph = .i4l) : Effects s (.istep i) (handlerI4L i s) :=
  .needDriver fun d hd => by
    split
    · next b q hq =>
      exact .ite (fun hroom => .ok (.setUart hi (.i4l hd hq hroom hph)))
        fun _ => .ok (.setIsr .nothing (.i4l_full hph))
    · exact .ite (fun _ => .ok (.setIsr .nothing (.i4l_done hph))) fun _ => .ok (.setIsr .nothing (.i4l_full hph))

theorem handlerI5_effects (hph : s.isr.ph = .i5) : Effects s (.istep i) (handlerI5 i s) :=
  .ite (fun ht => .needDriver fun _ hd =>
      .ok (.setIsr (.setUart hi (.count hd (by rw [hph]; rfl))) (.i5_fire hph ht)))
    fun ht => .ok (.setIsr .nothing (.i5_pass hph (eq_false_of_ne_true ht)))

theorem handlerStep_effects {ph : IsrPh} (hph : s.isr.ph = ph) : Effects s (.istep i) (handlerStep ph i s) := by
  cases ph with
  | idle => exact enterHandler_effects (.inr rfl) hi
  | i2 => exact handlerI2_effects hi hph
  | i3 => exact handlerI3_effects hi hph
  | i4 => exact handlerI4_effects hi hph
  | i4l => exact handlerI4L_effects hi hph
  | i5 => exact handlerI5_effects hi hph
  | i6 =>
    exact .ite (fun _ => .ok (.setIsr (.setUart hi (.request true)) (.i6 hph)))
      fun _ => .ok (.setIsr .nothing (.i6 hph))
  | i7a => exact .ok (.setIsr (.setUart hi (.i7a hph)) (.i7a hph))
  | i7b => exact .ok (.drew (.setIsr (.setUart hi (.i7b hph)) (.leave _)) 2)

end Handler

theorem execIstep_effects : Effects s (.istep i) (execIstep i s) :=
  .onInst fun hi =>
    .ite (fun _ => .ite (fun _ => enterHandler_effects (x := .istep i) (.inr rfl) hi) fun _ => .hold)
      fun _ => .ite (fun _ => .hold) fun _ => handlerStep_effects hi rfl

/-! ## The dispatch pass (43_dispatch.md) -/

section Pass

variable (hi : s.hasInst i = true)
include hi

theorem passD0_effects : Effects s (.pstep i) (passD0 i s) := by
  unfold passD0
  split
  · exact .ok (.setUart hi (.request false))
  · next d hd => exact .ok (.setPass (.setUart hi (.request false)) (.take rfl hi hd))

theorem passR1_effects (hph : s.pass.ph = .r1) : Effects s (.pstep i) (passR1 i s) :=
  .needDriver fun _ _ =>
    .ite (fun _ => .ok (.setPass (.setUart hi (.r1 hph)) (.advance (by rw [hph]; rfl))))
      fun _ => .ok (.setPass .nothing (.advance (by rw [hph]; rfl)))

theorem passR1L_effects (hph : s.pass.ph = .r1l) : Effects s (.pstep i) (passR1L i s) :=
  .needDriver fun _ hd =>
    .ite (fun _ => .ok (.setPass .nothing (.advance (by rw [hph]; rfl))))
      fun _ => .ite (fun _ => .raise) fun _ => .ok (.setPass (.setUart hi (.r1l hd hph)) (.received (.inl hph)))

theorem passR2_effects (hph : s.pass.ph = .r2) : Effects s (.pstep i) (passR2 i s) :=
  .needDriver fun _ hd => by
    split
    · next b q hq =>
      exact .ite (fun hroom => .ok (.setPass (.setUart hi (.r2 hd hq hroom hph)) (.received (.inr hph))))
        fun _ => .ok (.setPass .nothing (.advance (by rw [hph]; rfl)))
    · exact .ok (.setPass .nothing (.advance (by rw [hph]; rfl)))

theorem passR3_effects (hph : s.pass.ph = .r3) : Effects s (.pstep i) (passR3 i s) :=
  .needDriver fun _ hd =>
    .ite (fun _ => .ite (fun _ => .ok (.setPass (.setUart hi (.r3 hd hph)) (.poll_hit hph)))
        fun _ => .ok (.setPass .nothing (.poll_miss hph)))
      fun _ => .ok (.setPass .nothing (.advance (by rw [hph]; rfl)))

theorem passT1_effects (hph : s.pass.ph = .t1) : Effects s (.pstep i) (passT1 i s) :=
  .needDriver fun _ hd =>
    .ite (fun hmove => by
        split
        · exact .stop
        · next hview => exact .ok (.setUart hi (.t1 hd hmove.2 hview hph)))
      fun _ => .ok (.setPass .nothing (.advance (by rw [hph]; rfl)))

theorem passStep_effects {ph : PassPh} (hph : s.pass.ph = ph) : Effects s (.pstep i) (passStep ph i s) := by
  cases ph with
  | idle => exact passD0_effects hi
  | r1 => exact passR1_effects hi hph
  | r1l => exact passR1L_effects hi hph
  | r2 => exact passR2_effects hi hph
  | r3 => exact passR3_effects hi hph
  | r4 => exact .ok (.setPass (.setUart hi (.r4 hph)) (.advance (by rw [hph]; rfl)))
  | t1 => exact passT1_effects hi hph
  | t2 => exact .ok (.setPass (.setUart hi (.t2 hph)) (.advance (by rw [hph]; rfl)))
  | b1 => exact .needDriver fun _ hd => .ok (.drew (.setPass (.setUart hi (.b1 hd hph)) (.leave _)) 1)

end Pass

theorem execPstep_effects : Effects s (.pstep i) (execPstep i s) :=
  .inTask fun _ => .onInst fun hi =>
    .ite (fun _ => .ite (fun _ => passD0_effects hi) fun _ => .hold)
      fun _ => .ite (fun _ => .hold) fun _ => passStep_effects hi rfl

/-! ## The other operations with a branch of their own -/

theorem execRdbyte_effects : Effects s (.rdbyte i) (execRdbyte i s) :=
  .inTask fun _ => .onInst fun hi => by
    split
    · exact .raise
    · next hq => exact .okWith (.setUart hi (.rdbyte hq))

theorem execRxget_effects : Effects s (.rxget i) (execRxget i s) :=
  .inTask fun _ => .onInst fun hi => .onBound fun d hd => .withLock <| by
    split
    · exact .reads
    · next hview => exact .okWith (.setUart hi (.rxget hd hview))

theorem execInit_effects {rxFc txFc : Bool} {l : BitVec 22} :
    Effects s (.init i rxFc txFc l) (execInit i rxFc txFc l s) :=
  .inTask fun _ => .ite (fun _ => .reads) fun hi => .ite (fun _ => .raise) fun hb => .ite (fun _ => .reads) fun hfc =>
    .ite (fun _ => .reads) fun _ =>
      .okWith <| .drew (n := 3) <| .setUart (not_not.mp hi) <|
        .init (by simpa [State.bound] using hb) (by simpa using hfc)

theorem execDeinit_effects : Effects s (.deinit i) (execDeinit i s) :=
  .inTask fun hisr => .onInst fun hi => .onBound fun _ _ =>
    .ite (fun _ => .raise) fun hp => .ok (.setUart hi (.deinit hisr (eq_false_of_ne_true hp)))

theorem execRdcsr_effects {n : Byte} : Effects s (.rdcsr i n) (execRdcsr i n s) := by
  unfold execRdcsr
  split
  · exact .raise
  · exact .inTask fun _ => .onInst fun _ => .reads
  · exact .inTask fun _ => .onInst fun _ => .onBound fun _ _ => .reads

theorem execTxshift_effects : Effects s (.txshift i) (execTxshift i s) :=
  .onInst fun hi => by
    split
    · exact .hold
    · next hq => exact .ite (fun _ => .hold) fun _ => .okWith (.setUart hi (.txshift hq))

/-! ## Every operation -/

/-- No operation writes anything but what the three lists give it. -/
theorem exec_effects (x : Instr) (s : State) : Effects s x (exec x s) := by
  cases x with
  | bavail i => exact .inTask fun _ => .onInst fun _ => .reads
  | rdbyte i => exact execRdbyte_effects
  | savail i => exact .inTask fun _ => .onInst fun _ => .reads
  | wrbyte i b => exact .inTask fun _ => .onInst fun hi => .ite (fun _ => .raise) fun h => .ok (.setUart hi (.wrbyte h))
  | intstat i f => exact .inTask fun _ => .onInst fun _ => .reads
  | inten i m => exact .inTask fun _ => .onInst fun hi => .ok (.setUart hi .inten)
  | intdis i m => exact .inTask fun _ => .onInst fun hi => .ok (.setUart hi .intdis)
  | intclr i m => exact .inTask fun _ => .onInst fun hi => .ok (.setUart hi .intclr)
  | busy i => exact .inTask fun _ => .onInst fun _ => .reads
  | txput i b =>
    exact .inTask fun _ => .onInst fun hi => .onBound fun _ hd => .withLock <| .okWith (.setUart hi (.txput hd))
  | rxget i => exact execRxget_effects
  | irq i => exact .onInst fun hi => .ite (fun _ => .hold) fun _ => enterHandler_effects (x := .irq i) (.inl rfl) hi
  | istep i => exact execIstep_effects
  | dispatch i => exact .inTask fun _ => .onInst fun hi => .onBound fun _ _ => .ok (.setUart hi (.request true))
  | pstep i => exact execPstep_effects
  | init i rxFc txFc l => exact execInit_effects
  | deinit i => exact execDeinit_effects
  | setrxen i f => exact .inTask fun _ => .onInst fun hi => .onBound fun _ hd => .ok (.setUart hi (.setrxen hd))
  | flush i => exact .inTask fun _ => .onInst fun _ => .onBound fun _ _ => .ite (fun _ => .hold) fun _ => .ok .nothing
  | rdcsr i n => exact execRdcsr_effects
  | rxarrive i b =>
    exact .onInst fun hi => .ite (fun _ => .ok .nothing) fun _ =>
      .ite (fun hroom => .ok (.setUart hi (.rxarrive hroom))) fun _ => .ok (.setUart hi .rxlost)
  | rxtimeout i => exact .onInst fun hi => .ite (fun _ => .hold) fun _ => .ok (.setUart hi .rxtimeout)
  | rxlevel i => exact .onInst fun hi => .ite (fun _ => .hold) fun _ => .ok (.setUart hi .rxlevel)
  | txshift i => exact execTxshift_effects
  | txlevel i => exact .onInst fun hi => .ite (fun _ => .hold) fun _ => .ok (.setUart hi .txlevel)

theorem exec_writes (h : exec x s = .next t) : Writes s x t := (exec_effects x s t h).1

theorem exec_fault (h : exec x s = .next t) : t.fault = t.reply.faultAfter s.fault := (exec_effects x s t h).2

/-- A step idles, or applies an operation, or raises IllegalWord, once the word is off the port (logs 2 to 5). -/
theorem step_next (h : step s = .next t) :
    (s.port = [] ∧ t = s) ∨ ∃ p rest, s.port = p :: rest ∧
      ((∃ x, exec x { s with port := rest, allocOk := p.allocOk } = .next t) ∨
        State.raise { s with port := rest, allocOk := p.allocOk } .illegalWord = .next t) := by
  cases hp : s.port with
  | nil =>
    rw [step_of_port_nil hp] at h
    cases h
    exact .inl ⟨rfl, rfl⟩
  | cons p rest =>
    refine .inr ⟨p, rest, rfl, ?_⟩
    cases hd : decode p.word with
    | ok x => exact .inl ⟨x, (step_of_decode_ok hp hd).symm.trans h⟩
    | error e => exact .inr ((step_of_decode_error hp hd).symm.trans h)

end Sys2Proof.Machine
end

section
/-! PROOFS. The invariant (10_state.md R44): it holds at power-on, and each component of it is kept by what an operation
can write (`UartStep`, `IsrStep`, `PassStep`). -/

namespace Sys2Proof.Machine

variable {s t : State} {x : Instr} {u : Uart} {y : Isr} {z : Pass}

/-! ## The UARTs -/

section Bounds

variable {p : Params} {fc : Bool} {d d' : Driver} {v : Uart}

theorem Driver.fresh_wf (hp : p.Wf) {c : Cfg} {n : Nat} (hfc : (c.rxFc || c.txFc) = true → fc = true) :
    (Driver.fresh p c n).Wf p fc := by
  obtain ⟨-, haux, hrx, htx, -⟩ := hp
  exact ⟨(Ring.fresh_wf haux _).1, (Ring.fresh_wf hrx _).1, (Ring.fresh_wf htx _).1, hfc⟩

theorem Driver.Wf.moveAux (h : d.Wf p fc) (n : Nat) : (d.moveAux n).Wf p fc :=
  ⟨Ring.consume_wf h.aux, (Ring.appendN_contents h.rxb).1, h.txb, h.flow⟩

/-- A FIFO that gave its oldest byte holds no more than before. -/
theorem length_le_of_eq_cons {l q : List Byte} {b : Byte} {n : Nat} (hl : l.length ≤ n) (hq : l = b :: q) :
    q.length ≤ n := by
  rw [hq] at hl
  exact Nat.le_of_succ_le hl

/-- A bound UART whose driver state, FIFOs and ready line are rewritten within their bounds. -/
theorem Uart.Wf.rewrite (hu : u.Wf p fc) (hd : u.driver = some d) (hrx : v.rxFifo.length ≤ p.hwRxDepth)
    (htx : v.txFifo.length ≤ p.hwTxDepth) (hpen : v.pen = u.pen) (hrtr : v.rtr = true → fc = true)
    (hd' : v.driver = some d') (hwf : d'.Wf p fc) : v.Wf p fc where
  rxFifo := hrx
  txFifo := htx
  pen := by rw [hpen, hu.pen, hd, hd']; rfl
  rtr := hrtr
  driver e he := by
    obtain rfl := Option.some.inj (hd'.symm.trans he)
    exact hwf

/-- A bound UART of which only the driver state is rewritten. -/
theorem Uart.Wf.withDriver (hu : u.Wf p fc) (hd : u.driver = some d) (hwf : d'.Wf p fc) :
    Uart.Wf p fc { u with driver := some d' } :=
  hu.rewrite hd hu.rxFifo hu.txFifo rfl hu.rtr rfl hwf

end Bounds

/-- The ready line after SETRXEN is asserted only where flow control is supported (R205 with R201). -/
theorem Uart.Wf.setrxen_rtr {p : Params} {fc f : Bool} {d : Driver} (hu : u.Wf p fc) (hd : u.driver = some d)
    (hrtr : (if f then (if d.cfg.rxFc then true else u.rtr) else false) = true) : fc = true := by
  cases f with
  | false => cases hrtr
  | true =>
    cases hc : d.cfg.rxFc with
    | true => exact (hu.driver d hd).flow (by rw [hc]; rfl)
    | false => exact hu.rtr (by simpa [hc] using hrtr)

theorem UartStep.wf (hp : s.params.Wf) (hu : (s.uart x.inst).Wf s.params (s.fcSupported x.inst))
    (h : UartStep s x u) : u.Wf s.params (s.fcSupported x.inst) := by
  cases h with
  | rdbyte hq => exact { hu with rxFifo := length_le_of_eq_cons hu.rxFifo hq }
  | wrbyte hroom =>
    have hlen := hu.txFifo
    exact { hu with txFifo := by rw [List.length_append]; exact Nat.lt_of_le_of_ne hlen hroom }
  | txput hd =>
    have hdw := hu.driver _ hd
    exact hu.withDriver hd { hdw with txb := Ring.append_wf hdw.txb _ }
  | rxget hd =>
    have hdw := hu.driver _ hd
    exact hu.withDriver hd { hdw with rxb := Ring.consume_wf hdw.rxb }
  | init hd hfc =>
    refine ⟨hu.rxFifo, hu.txFifo, rfl, hu.rtr, fun e he => ?_⟩
    cases he
    exact Driver.fresh_wf hp hfc
  | deinit => exact ⟨hu.rxFifo, hu.txFifo, rfl, hu.rtr, fun _ he => by cases he⟩
  | setrxen hd =>
    exact hu.rewrite hd hu.rxFifo hu.txFifo rfl (hu.setrxen_rtr hd) rfl { hu.driver _ hd with }
  | rxarrive hroom => exact { hu with rxFifo := by rw [List.length_append]; exact hroom }
  | txshift hq => exact { hu with txFifo := length_le_of_eq_cons hu.txFifo hq }
  | count hd => exact hu.withDriver hd { hu.driver _ hd with }
  | i4l hd hq =>
    have hdw := hu.driver _ hd
    exact hu.rewrite hd (length_le_of_eq_cons hu.rxFifo hq) hu.txFifo rfl hu.rtr rfl
      { hdw with aux := Ring.append_wf hdw.aux _ }
  | r1l hd => exact hu.withDriver hd ((hu.driver _ hd).moveAux _)
  | r2 hd hq =>
    have hdw := hu.driver _ hd
    exact hu.rewrite hd (length_le_of_eq_cons hu.rxFifo hq) hu.txFifo rfl hu.rtr rfl
      { hdw with rxb := Ring.append_wf hdw.rxb _ }
  | r3 hd => exact hu.withDriver hd { hu.driver _ hd with }
  | t1 hd hroom =>
    have hdw := hu.driver _ hd
    exact hu.rewrite hd hu.rxFifo (by rw [List.length_append]; exact hroom) rfl hu.rtr rfl
      { hdw with txb := Ring.consume_wf hdw.txb }
  | _ => exact { hu with }

/-- A bound UART stays bound with the same configuration, unless DEINIT unbinds it (R203, R204). -/
theorem UartStep.driver_cases {d : Driver} (h : UartStep s x u) (hd : (s.uart x.inst).driver = some d) :
    (∃ e, u.driver = some e ∧ e.cfg = d.cfg) ∨
      (x = .deinit x.inst ∧ s.isr.ph = .idle ∧ s.passOn x.inst = false) := by
  cases h with
  | init hn => exact absurd (hn.symm.trans hd) nofun
  | deinit hisr hpass => exact .inr ⟨rfl, hisr, hpass⟩
  | txput hd' | rxget hd' | setrxen hd' | count hd' | i4l hd' | r1l hd' | r2 hd' | r3 hd' | t1 hd' =>
    obtain rfl := Option.some.inj (hd'.symm.trans hd)
    exact .inl ⟨_, rfl, rfl⟩
  | _ => exact .inl ⟨d, hd, rfl⟩

/-- A bound UART on which a handler or a pass may still work stays bound with the same configuration. -/
theorem Writes.driver_kept {i : InstId} {d : Driver} (h : Writes s x t) (hd : (s.uart i).driver = some d)
    (hx : x = .deinit i → s.isr.ph = .idle → s.passOn i = true) :
    ∃ e, (t.uart i).driver = some e ∧ e.cfg = d.cfg := by
  by_cases hi : i = x.inst
  · subst hi
    obtain hkept | ⟨hdeinit, hisr, hpass⟩ := h.uart.driver_cases hd
    · exact hkept
    · exact absurd ((hx hdeinit hisr).symm.trans hpass) nofun
  · exact ⟨d, by rw [h.others i hi, hd], rfl⟩

theorem Writes.bound_kept {i : InstId} (h : Writes s x t) (hb : s.bound i = true)
    (hx : x = .deinit i → s.isr.ph = .idle → s.passOn i = true) : t.bound i = true := by
  obtain ⟨d, hd⟩ := State.bound_iff.mp hb
  obtain ⟨e, he, -⟩ := h.driver_kept hd hx
  exact State.bound_iff.mpr ⟨e, he⟩

theorem Writes.lingerBudget_kept {i : InstId} (h : Writes s x t) (hb : s.bound i = true)
    (hx : x = .deinit i → s.isr.ph = .idle → s.passOn i = true) : t.lingerBudget i = s.lingerBudget i := by
  obtain ⟨d, hd⟩ := State.bound_iff.mp hb
  obtain ⟨e, he, hcfg⟩ := h.driver_kept hd hx
  simp only [State.lingerBudget, hd, he, hcfg, h.params]

theorem Writes.hasInst (h : Writes s x t) (i : InstId) : t.hasInst i = s.hasInst i := by
  simp only [State.hasInst, h.params]

theorem Writes.fcSupported (h : Writes s x t) (i : InstId) : t.fcSupported i = s.fcSupported i := by
  simp only [State.fcSupported, h.params]

theorem Writes.uart_wf (h : Writes s x t) (hs : s.Inv) (i : InstId) :
    (t.uart i).Wf t.params (t.fcSupported i) := by
  rw [h.params, h.fcSupported]
  by_cases hi : i = x.inst
  · subst hi
    exact h.uart.wf hs.params (hs.uarts _)
  · rw [h.others i hi]
    exact hs.uarts i

theorem Writes.uart_absent (h : Writes s x t) (hs : s.Inv) {i : InstId} (hi : s.hasInst i = false) :
    t.uart i = Uart.powerOn := by
  by_cases hx : i = x.inst
  · subst hx
    rw [h.absent hi, hs.absent _ hi]
  · rw [h.others i hx, hs.absent i hi]

/-! ## The interrupt sequencer -/

/-- A handler in flight after an operation is on a bound UART, and the operation is no DEINIT. -/
theorem IsrStep.bound (h : IsrStep s x y) (hs : s.Inv) (hy : y.ph ≠ .idle) :
    s.hasInst y.inst = true ∧ s.bound y.inst = true ∧ (x = .deinit y.inst → s.isr.ph ≠ .idle) := by
  have inFlight (hph : s.isr.ph ≠ .idle) : s.hasInst s.isr.inst = true ∧ s.bound s.isr.inst = true ∧
      (x = .deinit s.isr.inst → s.isr.ph ≠ .idle) :=
    ⟨(hs.isrBound hph).1, (hs.isrBound hph).2, fun _ => hph⟩
  cases h with
  | keep => exact inFlight hy
  | enter hx hi hb =>
    refine ⟨hi, hb, fun hdeinit => ?_⟩
    rw [hdeinit] at hx
    exact absurd hx (by simp)
  | leave => exact absurd rfl hy
  | i2 hph | i3_fire hph | i3_pass hph | i4_fire hph | i4_pass hph | i4l_full hph | i4l_done hph | i5_fire hph
  | i5_pass hph | i6 hph | i7a hph => exact inFlight (by rw [hph]; nofun)

theorem IsrStep.drain (h : IsrStep s x y) (hs : s.Inv) (hy : y.ph = .i4l) : anyBits y.snap rxInts = true := by
  cases h with
  | keep => exact hs.isrDrain hy
  | i4_fire _ ht => exact ht
  | _ => cases hy

/-- A test of two masks at once is a test of each. -/
theorem anyBits_or (a m n : Mask) : anyBits a (m ||| n) = (anyBits a m || anyBits a n) := by
  have hz : a &&& m ||| a &&& n = 0 ↔ a &&& m = 0 ∧ a &&& n = 0 := BitVec.or_eq_zero_iff
  rw [Bool.eq_iff_iff, Bool.or_eq_true, anyBits_iff, anyBits_iff, anyBits_iff, BitVec.and_or_distrib_left, Ne, hz,
    not_and_or]

theorem allInts_eq : allInts = (maskOe ||| rxInts) ||| maskTx := by decide

/-- The overrun bit is in neither mask that the handler adds to the disable mask (60_exceptions.md R234). -/
theorem anyBits_setBits_oe (m : Mask) :
    anyBits (setBits m rxInts) maskOe = anyBits m maskOe ∧ anyBits (setBits m txInts) maskOe = anyBits m maskOe := by
  revert m; decide

theorem IsrStep.dis (h : IsrStep s x y) (hs : s.Inv) (hy : y.ph ≠ .idle) : anyBits y.dis maskOe = false := by
  cases h with
  | keep => exact hs.isrDis hy
  | enter => exact (by decide : anyBits 0 maskOe = false)
  | leave => exact absurd rfl hy
  | i4l_full hph => exact (anyBits_setBits_oe _).1.trans (hs.isrDis (by rw [hph]; nofun))
  | i5_fire hph => exact (anyBits_setBits_oe _).2.trans (hs.isrDis (by rw [hph]; nofun))
  | i2 hph | i3_fire hph | i3_pass hph | i4_fire hph | i4_pass hph | i4l_done hph | i5_pass hph | i6 hph
  | i7a hph => exact hs.isrDis (by rw [hph]; nofun)

/-- `fired` follows the tests of steps 3 to 5 (42_interrupt_handler.md R145, R146, R148). -/
theorem IsrStep.fired (h : IsrStep s x y) (hs : s.Inv) (hy : y.ph ≠ .idle) : y.fired = firedBy y.ph y.snap := by
  have before {ph : IsrPh} (hph : s.isr.ph = ph) (hne : ph ≠ .idle) : s.isr.fired = firedBy ph s.isr.snap :=
    hph ▸ hs.isrFired (hph ▸ hne)
  cases h with
  | keep => exact hs.isrFired hy
  | enter => rfl
  | leave => exact absurd rfl hy
  | i2 hph =>
    have hf := before hph nofun
    exact hf
  | i3_fire _ ht => exact ht.symm
  | i3_pass hph ht => exact (before hph nofun).trans ht.symm
  | i4_fire _ ht => simp only [firedBy, anyBits_or, ht, Bool.or_true]
  | i4_pass hph ht =>
    have hf := before hph nofun
    simpa only [firedBy, anyBits_or, ht, Bool.or_false] using hf
  | i4l_full hph | i4l_done hph =>
    have hf := before hph nofun
    exact hf
  | i5_fire _ ht => simp only [firedBy, allInts_eq, anyBits_or, ht, Bool.or_true]
  | i5_pass hph ht =>
    have hf := before hph nofun
    simpa only [firedBy, allInts_eq, anyBits_or, ht, Bool.or_false] using hf
  | i6 hph | i7a hph =>
    have hf := before hph nofun
    exact hf

/-! ## The dispatch sequencer -/

theorem PassPh.goesTo_inFlight {p q : PassPh} (h : p.goesTo q = true) : p ≠ .idle ∧ q ≠ .r1 := by
  constructor
  · rintro rfl
    cases q <;> cases h
  · rintro rfl
    cases p <;> cases h

/-- A pass in flight after an operation is on a bound UART with its budget kept, and the operation is no DEINIT
of it. -/
theorem PassStep.bound (h : PassStep s x z) (hs : s.Inv) (hz : z.ph ≠ .idle) :
    s.hasInst z.inst = true ∧ s.bound z.inst = true ∧ z.lingerLeft ≤ s.lingerBudget z.inst ∧
      (x = .deinit z.inst → s.passOn z.inst = true) := by
  have inFlight {n : Nat} (hph : s.pass.ph ≠ .idle) (hn : n ≤ s.pass.lingerLeft) :
      s.hasInst s.pass.inst = true ∧ s.bound s.pass.inst = true ∧ n ≤ s.lingerBudget s.pass.inst ∧
        (x = .deinit s.pass.inst → s.passOn s.pass.inst = true) :=
    ⟨(hs.passBound hph).1, (hs.passBound hph).2, hn.trans (hs.passLinger hph),
      fun _ => by simp [State.passOn, hph]⟩
  cases h with
  | keep => exact inFlight hz le_rfl
  | take hx hi hd =>
    refine ⟨hi, State.bound_iff.mpr ⟨_, hd⟩, by simp only [State.lingerBudget, hd, le_refl], fun hdeinit => ?_⟩
    exact absurd (hx.symm.trans hdeinit) nofun
  | advance hp => exact inFlight (PassPh.goesTo_inFlight hp).1 le_rfl
  | received hph => exact inFlight (by obtain hph | hph := hph <;> rw [hph] <;> nofun) le_rfl
  | poll_hit hph | poll_miss hph => exact inFlight (by rw [hph]; nofun) (Nat.sub_le _ _)
  | leave => exact absurd rfl hz

theorem PassStep.recd (h : PassStep s x z) (hs : s.Inv) (hz : z.ph = .r1) : z.recd = false := by
  cases h with
  | keep => exact hs.passRecd hz
  | take => rfl
  | advance hp => exact absurd hz (PassPh.goesTo_inFlight hp).2
  | received hph => obtain hph | hph := hph <;> exact absurd (hph.symm.trans hz) nofun
  | poll_hit => cases hz
  | poll_miss hph => exact absurd (hph.symm.trans hz) nofun
  | leave => cases hz

/-! ## FAULT and the whole invariant -/

theorem Reply.faultAfter_le {f : Word} (hf : f.toNat ≤ 7) (o : Reply) : (o.faultAfter f).toNat ≤ 7 := by
  cases o with
  | fault c =>
    by_cases hz : f = 0
    · simpa only [Reply.faultAfter, if_pos hz] using c.code_le
    · simpa only [Reply.faultAfter, if_neg hz] using hf
  | none => exact hf
  | ok => exact hf
  | hold => exact hf

theorem exec_keeps_inv (hs : s.Inv) (h : exec x s = .next t) : t.Inv := by
  have hw := exec_writes h
  have hisr (ht : t.isr.ph ≠ .idle) := hw.isr.bound hs ht
  have hpass (ht : t.pass.ph ≠ .idle) := hw.pass.bound hs ht
  exact {
    params := by rw [hw.params]; exact hs.params
    uarts := hw.uart_wf hs
    absent := fun i hi => hw.uart_absent hs (by rwa [hw.hasInst] at hi)
    isrBound := fun ht => by
      obtain ⟨hi, hb, hx⟩ := hisr ht
      exact ⟨by rwa [hw.hasInst], hw.bound_kept hb fun hd hidle => absurd hidle (hx hd)⟩
    isrDrain := hw.isr.drain hs
    isrFired := hw.isr.fired hs
    isrDis := hw.isr.dis hs
    passBound := fun ht => by
      obtain ⟨hi, hb, -, hx⟩ := hpass ht
      exact ⟨by rwa [hw.hasInst], hw.bound_kept hb fun hd _ => hx hd⟩
    passLinger := fun ht => by
      obtain ⟨-, hb, hl, hx⟩ := hpass ht
      rwa [hw.lingerBudget_kept hb fun hd _ => hx hd]
    passRecd := hw.pass.recd hs
    fault := by rw [exec_fault h]; exact Reply.faultAfter_le hs.fault _ }

theorem raise_keeps_inv {c : FaultCode} (hs : s.Inv) (h : s.raise c = .next t) : t.Inv := by
  obtain rfl := State.raise_next h
  exact { hs with fault := Reply.faultAfter_le hs.fault (.fault c) }

/-- Settles O10: an idle step changes nothing, and what an applied word can write keeps each part of the invariant. -/
theorem stepKeepsInvariant : Obligations.StepKeepsInvariant := fun s t hs h => by
  obtain ⟨-, rfl⟩ | ⟨p, rest, -, ⟨x, hx⟩ | hraise⟩ := step_next h
  · exact hs
  · exact exec_keeps_inv (hs.withPort rest p.allocOk) hx
  · exact raise_keeps_inv (hs.withPort rest p.allocOk) hraise

/-! ## Reset -/

theorem Uart.powerOn_wf (p : Params) (fc : Bool) : Uart.powerOn.Wf p fc :=
  ⟨Nat.zero_le _, Nat.zero_le _, rfl, nofun, nofun⟩

theorem powerOn_inv {p : Params} (hp : p.Wf) : (State.powerOn p).Inv where
  params := hp
  uarts i := by rw [State.powerOn_uart]; exact Uart.powerOn_wf _ _
  absent i _ := State.powerOn_uart p i
  isrBound h := absurd rfl h
  isrDrain h := by cases h
  isrFired h := absurd rfl h
  isrDis h := absurd rfl h
  passBound h := absurd rfl h
  passLinger h := absurd rfl h
  passRecd h := by cases h
  fault := Nat.zero_le 7

/-- Settles O9: both sequencers are idle, every UART is as power-on leaves it, and TC1 meets R6. -/
theorem invariantAtReset : Obligations.InvariantAtReset :=
  ⟨powerOn_inv (by decide), fun _ => powerOn_inv⟩

end Sys2Proof.Machine
end

section
/-! PROOFS. Who writes what (10_state.md R23, R26, R27, R37): for `FAULT`, the status bits, the mask bits and the
counters, the micro-operations that can change them, read off what an operation can write (`UartStep`). -/

namespace Sys2Proof.Machine

variable {s t : State} {x : Instr} {j : InstId} {u : Uart}

/-! ## FAULT (R23) -/

theorem Reply.faultAfter_changed {f : Word} {o : Reply} (h : o.faultAfter f ≠ f) :
    f = 0 ∧ ∃ c, o = .fault c ∧ o.faultAfter f = c.code := by
  cases o with
  | fault c =>
    by_cases hz : f = 0
    · exact ⟨hz, c, rfl, if_pos hz⟩
    · exact absurd (if_neg hz) h
  | none => exact absurd rfl h
  | ok => exact absurd rfl h
  | hold => exact absurd rfl h

theorem raise_fault {c : FaultCode} (h : s.raise c = .next t) : t.fault = t.reply.faultAfter s.fault := by
  obtain rfl := State.raise_next h
  rfl

theorem step_fault (h : step s = .next t) (hp : s.port ≠ []) : t.fault = t.reply.faultAfter s.fault := by
  obtain ⟨hnil, -⟩ | ⟨p, rest, -, ⟨x, hx⟩ | hraise⟩ := step_next h
  · exact absurd hnil hp
  · exact (exec_fault hx :)
  · exact (raise_fault hraise :)

/-- Settles O14: `FAULT` after a step is a function of `FAULT` before it and of the outcome. -/
theorem faultRegisterIsSticky : Obligations.FaultRegisterIsSticky := by
  refine ⟨fun _ => rfl, fun s t h => ⟨fun hne => ?_, fun hp c hc => ?_⟩⟩
  · by_cases hp : s.port = []
    · obtain rfl : s = t := Host.Outcome.next.inj ((step_of_port_nil hp).symm.trans h)
      exact absurd rfl hne
    · rw [step_fault h hp] at hne ⊢
      exact Reply.faultAfter_changed hne
  · rw [step_fault h hp, hc]
    rfl

/-! ## Status and mask bits -/

/-- A register after a word: as before, or with the bits of one mask that may be set now all set, or with the bits of
one mask that may be cleared now all cleared. -/
inductive BitsStep (sets clears : Mask → Prop) (a : Mask) : Mask → Prop where
  | keep : BitsStep sets clears a a
  | set {m} (hm : sets m) : BitsStep sets clears a (setBits a m)
  | clear {m} (hm : clears m) : BitsStep sets clears a (clearBits a m)

theorem BitsStep.rises {sets clears : Mask → Prop} {a a' : Mask} {k : Nat} (h : BitsStep sets clears a a')
    (h0 : a.getLsbD k = false) (h1 : a'.getLsbD k = true) : ∃ m, sets m ∧ m.getLsbD k = true := by
  cases h with
  | keep => exact absurd (h0.symm.trans h1) nofun
  | @set m hm => exact ⟨m, hm, by simpa [setBits_getLsbD, h0] using h1⟩
  | clear => simp [clearBits_getLsbD _ _ (BitVec.lt_of_getLsbD h1), h0] at h1

theorem BitsStep.falls {sets clears : Mask → Prop} {a a' : Mask} {k : Nat} (h : BitsStep sets clears a a')
    (h1 : a.getLsbD k = true) (h0 : a'.getLsbD k = false) : ∃ m, clears m ∧ m.getLsbD k = true := by
  cases h with
  | keep => exact absurd (h0.symm.trans h1) nofun
  | set => simp [setBits_getLsbD, h1] at h0
  | @clear m hm => exact ⟨m, hm, by simpa [clearBits_getLsbD _ _ (BitVec.lt_of_getLsbD h1), h1] using h0⟩

/-- The bits of the masks of 00_scope.md R10. -/
theorem getLsbD_masks {k : Nat} :
    (maskRx.getLsbD k = true → k = 0) ∧ (maskRt.getLsbD k = true → k = 1) ∧ (maskTx.getLsbD k = true → k = 2) ∧
      (maskOe.getLsbD k = true → k = 3) ∧ (rxInts.getLsbD k = true → k = 0 ∨ k = 1) := by
  by_cases hk : k < 4
  · revert k; decide
  · have hge (m : Mask) : m.getLsbD k = false := BitVec.getLsbD_of_ge m k (by omega)
    simp [hge]

/-! ## The status bits (R26) -/

/-- The masks of status bits a peripheral event can set (45_peripheral_events.md R221 to R225). -/
inductive SetsStatus : Instr → Mask → Prop where
  | rxarrive {i b} : SetsStatus (.rxarrive i b) maskRx
  | rxlost {i b} : SetsStatus (.rxarrive i b) maskOe
  | rxtimeout {i} : SetsStatus (.rxtimeout i) maskRt
  | rxlevel {i} : SetsStatus (.rxlevel i) maskRx
  | txshift {i} : SetsStatus (.txshift i) maskTx
  | txlevel {i} : SetsStatus (.txlevel i) maskTx

/-- The masks of status bits a word can clear: by INTCLR, `I7B`, `R4` and `T2` (R26). -/
inductive ClearsStatus (s : State) : Instr → Mask → Prop where
  | intclr {i m} : ClearsStatus s (.intclr i m) m
  | i7b {i} (hph : s.isr.ph = .i7b) : ClearsStatus s (.istep i) s.isr.snap
  | r4 {i} (hph : s.pass.ph = .r4) : ClearsStatus s (.pstep i) rxInts
  | t2 {i} (hph : s.pass.ph = .t2) : ClearsStatus s (.pstep i) txInts

theorem UartStep.ris (h : UartStep s x u) :
    BitsStep (SetsStatus x) (ClearsStatus s x) (s.uart x.inst).ris u.ris := by
  cases h with
  | intclr => exact .clear .intclr
  | rxarrive =>
    dsimp only
    split
    · exact .set .rxarrive
    · exact .keep
  | rxlost => exact .set .rxlost
  | rxtimeout => exact .set .rxtimeout
  | rxlevel => exact .set .rxlevel
  | txshift =>
    dsimp only
    split
    · exact .set .txshift
    · exact .keep
  | txlevel => exact .set .txlevel
  | i7b hph => exact .clear (.i7b hph)
  | r4 hph => exact .clear (.r4 hph)
  | t2 hph => exact .clear (.t2 hph)
  | _ => exact .keep

/-- A UART that differs after a word is the one the word names. -/
theorem Writes.inst_of_ne (h : Writes s x t) (hne : t.uart j ≠ s.uart j) : j = x.inst := by
  by_contra hj
  exact hne (h.others j hj)

theorem SetsStatus.bit {m : Mask} {k : Nat} (h : SetsStatus x m) (hk : m.getLsbD k = true) :
    (k = 0 ∧ ((∃ b, x = .rxarrive x.inst b) ∨ x = .rxlevel x.inst)) ∨ (k = 1 ∧ x = .rxtimeout x.inst) ∨
      (k = 2 ∧ (x = .txshift x.inst ∨ x = .txlevel x.inst)) ∨ (k = 3 ∧ ∃ b, x = .rxarrive x.inst b) := by
  obtain ⟨hrx, hrt, htx, hoe, -⟩ := getLsbD_masks (k := k)
  cases h with
  | rxarrive => exact .inl ⟨hrx hk, .inl ⟨_, rfl⟩⟩
  | rxlost => exact .inr (.inr (.inr ⟨hoe hk, _, rfl⟩))
  | rxtimeout => exact .inr (.inl ⟨hrt hk, rfl⟩)
  | rxlevel => exact .inl ⟨hrx hk, .inr rfl⟩
  | txshift => exact .inr (.inr (.inl ⟨htx hk, .inl rfl⟩))
  | txlevel => exact .inr (.inr (.inl ⟨htx hk, .inr rfl⟩))

theorem ClearsStatus.bit {m : Mask} {k : Nat} (h : ClearsStatus s x m) (hk : m.getLsbD k = true) :
    (∃ m, x = .intclr x.inst m ∧ m.getLsbD k = true) ∨
      (x = .istep x.inst ∧ s.isr.ph = .i7b ∧ s.isr.snap.getLsbD k = true) ∨
      (x = .pstep x.inst ∧ s.pass.ph = .r4 ∧ (k = 0 ∨ k = 1)) ∨ (x = .pstep x.inst ∧ s.pass.ph = .t2 ∧ k = 2) := by
  obtain ⟨-, -, htx, -, hrxs⟩ := getLsbD_masks (k := k)
  cases h with
  | intclr => exact .inl ⟨_, rfl, hk⟩
  | i7b hph => exact .inr (.inl ⟨rfl, hph, hk⟩)
  | r4 hph => exact .inr (.inr (.inl ⟨rfl, hph, hrxs hk⟩))
  | t2 hph => exact .inr (.inr (.inr ⟨rfl, hph, htx hk⟩))

/-- Settles O53: a status bit that changes is in the mask of a word that may set it, or clear it. -/
theorem statusBitsAreLatches : Obligations.StatusBitsAreLatches := by
  refine ⟨fun p i => by rw [State.powerOn_uart]; rfl, fun x s t j k h => ⟨fun h0 h1 => ?_, fun h1 h0 => ?_⟩⟩
  · obtain rfl := (exec_writes h).inst_of_ne fun hu => by rw [hu, h0] at h1; cases h1
    obtain ⟨m, hm, hk⟩ := (exec_writes h).uart.ris.rises h0 h1
    exact hm.bit hk
  · obtain rfl := (exec_writes h).inst_of_ne fun hu => by rw [hu, h1] at h0; cases h0
    obtain ⟨m, hm, hk⟩ := (exec_writes h).uart.ris.falls h1 h0
    exact hm.bit hk

/-! ## The mask bits (R27) -/

/-- The masks of mask bits a word can set: by INTEN and `B1` (R27). -/
inductive SetsMask (s : State) : Instr → Mask → Prop where
  | inten {i m} : SetsMask s (.inten i m) m
  | b1 {i m} (hph : s.pass.ph = .b1) : SetsMask s (.pstep i) m

/-- The masks of mask bits a word can clear: by INTDIS, `I7A`, `R1`, INIT and DEINIT (R27). -/
inductive ClearsMask (s : State) : Instr → Mask → Prop where
  | intdis {i m} : ClearsMask s (.intdis i m) m
  | i7a {i} (hph : s.isr.ph = .i7a) : ClearsMask s (.istep i) s.isr.dis
  | r1 {i} (hph : s.pass.ph = .r1) : ClearsMask s (.pstep i) rxInts
  | init {i rxFc txFc l} : ClearsMask s (.init i rxFc txFc l) allInts
  | deinit {i} : ClearsMask s (.deinit i) allInts

theorem clearBits_allInts (m : Mask) : clearBits m allInts = 0 := by
  revert m; decide

theorem UartStep.im (h : UartStep s x u) : BitsStep (SetsMask s x) (ClearsMask s x) (s.uart x.inst).im u.im := by
  cases h with
  | inten => exact .set .inten
  | intdis => exact .clear .intdis
  | init => exact clearBits_allInts (s.uart _).im ▸ .clear .init
  | deinit => exact clearBits_allInts (s.uart _).im ▸ .clear .deinit
  | i7a hph => exact .clear (.i7a hph)
  | r1 hph => exact .clear (.r1 hph)
  | b1 _ hph => exact .set (.b1 hph)
  | _ => exact .keep

theorem SetsMask.bit {m : Mask} {k : Nat} (h : SetsMask s x m) (hk : m.getLsbD k = true) :
    (∃ m, x = .inten x.inst m ∧ m.getLsbD k = true) ∨ (x = .pstep x.inst ∧ s.pass.ph = .b1) := by
  cases h with
  | inten => exact .inl ⟨_, rfl, hk⟩
  | b1 hph => exact .inr ⟨rfl, hph⟩

theorem ClearsMask.bit {m : Mask} {k : Nat} (h : ClearsMask s x m) (hk : m.getLsbD k = true) :
    (∃ m, x = .intdis x.inst m ∧ m.getLsbD k = true) ∨
      (x = .istep x.inst ∧ s.isr.ph = .i7a ∧ s.isr.dis.getLsbD k = true) ∨
      (x = .pstep x.inst ∧ s.pass.ph = .r1 ∧ (k = 0 ∨ k = 1)) ∨
      (∃ r f l, x = .init x.inst r f l) ∨ x = .deinit x.inst := by
  obtain ⟨-, -, -, -, hrxs⟩ := getLsbD_masks (k := k)
  cases h with
  | intdis => exact .inl ⟨_, rfl, hk⟩
  | i7a hph => exact .inr (.inl ⟨rfl, hph, hk⟩)
  | r1 hph => exact .inr (.inr (.inl ⟨rfl, hph, hrxs hk⟩))
  | init => exact .inr (.inr (.inr (.inl ⟨_, _, _, rfl⟩)))
  | deinit => exact .inr (.inr (.inr (.inr rfl)))

/-- Settles O54: a mask bit that changes is in the mask of a word that may set it, or clear it. -/
theorem maskBitsHaveTheirWriters : Obligations.MaskBitsHaveTheirWriters := by
  refine ⟨fun p i => by rw [State.powerOn_uart]; rfl, fun x s t j k h => ⟨fun h0 h1 => ?_, fun h1 h0 => ?_⟩⟩
  · obtain rfl := (exec_writes h).inst_of_ne fun hu => by rw [hu, h0] at h1; cases h1
    obtain ⟨m, hm, hk⟩ := (exec_writes h).uart.im.rises h0 h1
    exact hm.bit hk
  · obtain rfl := (exec_writes h).inst_of_ne fun hu => by rw [hu, h1] at h0; cases h0
    obtain ⟨m, hm, hk⟩ := (exec_writes h).uart.im.falls h1 h0
    exact hm.bit hk

/-! ## The counters (R37) -/

/-- What an operation can make of the counters of UART `j`, bound before with driver state `d` and after with `e`. -/
inductive StatsStep (s : State) (j : InstId) (d e : Driver) : Instr → Stats → Prop where
  | keep (o) : StatsStep s j d e o d.stats
  | count : StatsStep s j d e (.istep j) (d.stats.countedAt s.isr.ph)
  | r1l (hph : s.pass.ph = .r1l) :
      StatsStep s j d e (.pstep j) { d.stats with rxBytes := add32 d.stats.rxBytes (d.aux.used - e.aux.used) }
  | r2 (hph : s.pass.ph = .r2) : StatsStep s j d e (.pstep j) { d.stats with rxBytes := inc32 d.stats.rxBytes }
  | r3 (hph : s.pass.ph = .r3) :
      StatsStep s j d e (.pstep j) { d.stats with rxLingerConts := inc32 d.stats.rxLingerConts }
  | t1 (hph : s.pass.ph = .t1) : StatsStep s j d e (.pstep j) { d.stats with txBytes := inc32 d.stats.txBytes }

/-- The bytes a move of `R1L` counts are those it takes out of `AUX` (43_dispatch.md R164). -/
theorem Driver.moveAux_stats (d : Driver) (n : Nat) :
    (d.moveAux n).stats =
      { d.stats with rxBytes := add32 d.stats.rxBytes (d.aux.used - (d.moveAux n).aux.used) } := by
  have hcount : d.aux.used - (d.moveAux n).aux.used = (d.aux.getView n).2 :=
    Nat.sub_sub_self (Ring.getView_count_le_used d.aux n)
  rw [hcount]
  rfl

theorem UartStep.stats {d e : Driver} (h : UartStep s x u) (hd : (s.uart x.inst).driver = some d)
    (he : u.driver = some e) : StatsStep s x.inst d e x e.stats := by
  cases h with
  | init hn => exact absurd (hn.symm.trans hd) nofun
  | deinit => cases he
  | txput hd' | rxget hd' | setrxen hd' | i4l hd' =>
    obtain rfl := Option.some.inj (hd'.symm.trans hd)
    obtain rfl := Option.some.inj he
    exact .keep _
  | count hd' hc =>
    obtain rfl := Option.some.inj (hd'.symm.trans hd)
    obtain rfl := Option.some.inj he
    exact hc ▸ .count
  | r1l hd' hph =>
    obtain rfl := Option.some.inj (hd'.symm.trans hd)
    obtain rfl := Option.some.inj he
    rw [Driver.moveAux_stats]
    exact .r1l hph
  | r2 hd' _ _ hph =>
    obtain rfl := Option.some.inj (hd'.symm.trans hd)
    obtain rfl := Option.some.inj he
    exact .r2 hph
  | r3 hd' hph =>
    obtain rfl := Option.some.inj (hd'.symm.trans hd)
    obtain rfl := Option.some.inj he
    exact .r3 hph
  | t1 hd' _ _ hph =>
    obtain rfl := Option.some.inj (hd'.symm.trans hd)
    obtain rfl := Option.some.inj he
    exact .t1 hph
  | _ =>
    obtain rfl := Option.some.inj (hd.symm.trans he)
    exact .keep _

theorem Writes.stats {d e : Driver} (h : Writes s x t) (hd : (s.uart j).driver = some d)
    (he : (t.uart j).driver = some e) : StatsStep s j d e x e.stats := by
  by_cases hj : j = x.inst
  · subst hj
    exact h.uart.stats hd he
  · rw [h.others j hj] at he
    obtain rfl := Option.some.inj (hd.symm.trans he)
    exact .keep _

/-- Settles O55: each way the counters can change writes one of them, at its own phase. -/
theorem countersHaveOneWriterEach : Obligations.CountersHaveOneWriterEach := by
  intro x s t j d e h hd he
  have hstep := (exec_writes h).stats hd he
  generalize e.stats = c at hstep ⊢
  cases hstep with
  | keep => simp
  | count => cases hph : s.isr.ph <;> simp [Stats.countedAt, inc32]
  | r1l hph => simp [hph, add32]
  | r2 hph => simp [hph, inc32]
  | r3 hph => simp [hph, inc32]
  | t1 hph => simp [hph, inc32]

end Sys2Proof.Machine
end

section
/-! PROOFS. The received bytes (10_state.md R45, 45_peripheral_events.md R229): what an operation makes of the bytes an
UART holds, first for the operations that only move them, then for the four that add, return or drop bytes. -/

namespace Sys2Proof.Machine

variable {s t : State} {x : Instr} {i j : InstId} {u : Uart} {d : Driver} {k : Result} {v : Option Word} {c : FaultCode}

theorem Uart.received_bound (hd : u.driver = some d) :
    u.received = d.rxb.contents ++ d.aux.contents ++ u.rxFifo := by
  simp only [Uart.received, hd]

theorem Uart.received_unbound (hd : u.driver = none) : u.received = u.rxFifo := by
  simp only [Uart.received, hd]

/-- Two bound UARTs hold the same bytes if their buffers and FIFO do. -/
theorem Uart.received_perm_of_bound {u' : Uart} {d' : Driver} (hd : u.driver = some d) (hd' : u'.driver = some d')
    (h : (d'.rxb.contents ++ d'.aux.contents ++ u'.rxFifo).Perm (d.rxb.contents ++ d.aux.contents ++ u.rxFifo)) :
    u'.received.Perm u.received := by
  rwa [Uart.received_bound hd, Uart.received_bound hd']

theorem Driver.fresh_contents {p : Params} (hp : p.Wf) (c : Cfg) (n : Nat) :
    (Driver.fresh p c n).rxb.contents = [] ∧ (Driver.fresh p c n).aux.contents = [] := by
  obtain ⟨-, haux, hrx, -⟩ := hp
  exact ⟨(Ring.fresh_wf hrx _).2, (Ring.fresh_wf haux _).2⟩

/-- Appending to a buffer with room adds the byte at the end. -/
theorem Ring.Wf.append_contents_of_avail {cap : Nat} {b : Ring} (h : b.Wf cap) (hroom : 0 < b.avail) (a : Byte) :
    (b.append a).1.contents = b.contents ++ [a] :=
  (Ring.append_contents h (by have := h.used_add_avail; omega) a).1

/-- A move of `R1L` carries the oldest bytes of `AUX` to the end of `RXB` and loses none: the view is no longer than
the room (43_dispatch.md R164). -/
theorem Driver.Wf.moveAux_contents {p : Params} {fc : Bool} {n : Nat} (h : d.Wf p fc) (hn : n ≤ d.rxb.avail) :
    (d.moveAux n).rxb.contents ++ (d.moveAux n).aux.contents = d.rxb.contents ++ d.aux.contents := by
  have hview := Ring.viewBytes_eq_take h.aux n
  have hlen : (d.aux.viewBytes n).length ≤ d.rxb.avail := by
    rw [Ring.viewBytes_length]
    exact (Ring.getView_count_le_max _ _).trans hn
  have hrxb : (d.moveAux n).rxb.contents = d.rxb.contents ++ d.aux.contents.take (d.aux.getView n).2 := by
    rw [← hview]
    exact (Ring.appendN_contents h.rxb).2.2.2.trans (by rw [List.take_of_length_le hlen])
  have haux : (d.moveAux n).aux.contents = d.aux.contents.drop (d.aux.getView n).2 :=
    (Ring.consume_contents h.aux (Ring.getView_count_le_used _ _)).1
  rw [hrxb, haux, List.append_assoc, List.take_append_drop]

/-! ## The operations that move bytes -/

/-- But for the four operations that add, return or drop bytes, a word leaves a UART the bytes it holds: only `R2`
changes their order, and only where it overtakes `AUX` (20_memory.md R70). -/
theorem UartStep.received_perm (h : UartStep s x u) (hp : s.params.Wf)
    (hu : (s.uart x.inst).Wf s.params (s.fcSupported x.inst)) (harrive : ∀ b, x ≠ .rxarrive x.inst b)
    (hrd : x ≠ .rdbyte x.inst) (hget : x ≠ .rxget x.inst) (hdeinit : x ≠ .deinit x.inst) :
    u.received.Perm (s.uart x.inst).received := by
  cases h with
  | rdbyte => exact absurd rfl hrd
  | rxget => exact absurd rfl hget
  | deinit => exact absurd rfl hdeinit
  | rxarrive | rxlost => exact absurd rfl (harrive _)
  | txput hd | setrxen hd | count hd | r3 hd | t1 hd => exact Uart.received_perm_of_bound hd rfl .rfl
  | @init i rxFc txFc l hd =>
    obtain ⟨hrxb, haux⟩ := Driver.fresh_contents hp { rxFc := rxFc, txFc := txFc, lingerUs := l } s.draws
    have hbefore : (s.uart i).received = (s.uart i).rxFifo := Uart.received_unbound hd
    rw [Uart.received_bound rfl, hrxb, haux]
    exact .of_eq hbefore.symm
  | i4l hd hq hroom =>
    have haux := (hu.driver _ hd).aux.append_contents_of_avail hroom
    refine Uart.received_perm_of_bound hd rfl (.of_eq ?_)
    simp only [Instr.inst, haux, hq, List.append_assoc, List.singleton_append]
  | r1l hd =>
    refine Uart.received_perm_of_bound hd rfl (.of_eq ?_)
    rw [(hu.driver _ hd).moveAux_contents (Nat.min_le_left _ _)]
    rfl
  | r2 hd hq hroom =>
    have hrxb := (hu.driver _ hd).rxb.append_contents_of_avail hroom
    refine Uart.received_perm_of_bound hd rfl ?_
    simp only [Instr.inst, hrxb, hq, List.append_assoc, List.cons_append, List.nil_append]
    exact List.perm_middle.symm.append_left _
  | _ => exact .rfl

theorem Writes.received_perm (h : Writes s x t) (hs : s.Inv) (harrive : ∀ b, x ≠ .rxarrive j b)
    (hrd : x ≠ .rdbyte j) (hget : x ≠ .rxget j) (hdeinit : x ≠ .deinit j) :
    (t.uart j).received.Perm (s.uart j).received := by
  by_cases hj : j = x.inst
  · subst hj
    exact h.uart.received_perm hs.params (hs.uarts _) harrive hrd hget hdeinit
  · rw [h.others j hj]

/-! ## A word that ends ok has passed its checks (60_exceptions.md R233) -/

theorem raise_not_ok (h : s.raise c = .next t) : t.reply ≠ .ok v := by
  rw [State.raise_next h]
  nofun

theorem State.inTask_ok (h : s.inTask k = .next t) (hr : t.reply = .ok v) : k = .next t := by
  obtain ⟨-, rfl⟩ | ⟨-, hk⟩ := State.inTask_next h
  · cases hr
  · exact hk

theorem State.onInst_ok (h : s.onInst i k = .next t) (hr : t.reply = .ok v) : k = .next t := by
  obtain ⟨-, hraise⟩ | ⟨-, hk⟩ := State.onInst_next h
  · exact absurd hr (raise_not_ok hraise)
  · exact hk

theorem State.onBound_ok {f : Driver → Result} (h : s.onBound i f = .next t) (hr : t.reply = .ok v) :
    ∃ d, (s.uart i).driver = some d ∧ f d = .next t := by
  obtain ⟨-, hraise⟩ | hk := State.onBound_next h
  · exact absurd hr (raise_not_ok hraise)
  · exact hk

theorem State.withLock_ok (h : s.withLock k = .next t) (hr : t.reply = .ok v) : k = .next t := by
  obtain ⟨-, rfl⟩ | ⟨-, hk⟩ := State.withLock_next h
  · cases hr
  · exact hk

/-! ## The four operations that add, return or drop bytes -/

theorem received_push (u : Uart) (b : Byte) (m : Mask) :
    Uart.received { u with rxFifo := u.rxFifo ++ [b], ris := m } = u.received ++ [b] := by
  cases hd : u.driver with
  | none => simp [Uart.received, hd]
  | some d => simp [Uart.received, hd]

/-- R221: RXARRIVE adds its byte at the end, discards it while the peripheral is disabled, or counts it lost. -/
theorem execRxarrive_received {b : Byte} (h : execRxarrive i b s = .next t) :
    ((t.uart i).received = (s.uart i).received ++ [b] ∧ (t.uart i).rxLost = (s.uart i).rxLost) ∨
      ((t.uart i).received = (s.uart i).received ∧ (s.uart i).pen = false ∧
        (t.uart i).rxLost = (s.uart i).rxLost) ∨
      ((t.uart i).received = (s.uart i).received ∧ (s.uart i).pen = true ∧
        (t.uart i).rxLost = (s.uart i).rxLost + 1) ∨ t.reply = .fault .noInstance := by
  obtain ⟨-, hraise⟩ | ⟨-, hk⟩ := State.onInst_next h
  · rw [State.raise_next hraise]
    exact .inr (.inr (.inr rfl))
  · split at hk
    · next hpen =>
      rw [State.ok_next hk]
      exact .inr (.inl ⟨rfl, eq_false_of_ne_true hpen, rfl⟩)
    · next hpen =>
      split at hk
      · rw [State.ok_next hk, State.setReply_uart, State.uart_setUart_self]
        exact .inl ⟨received_push _ _ _, rfl⟩
      · rw [State.ok_next hk, State.setReply_uart, State.uart_setUart_self]
        exact .inr (.inr (.inl ⟨rfl, not_not.mp hpen, rfl⟩))

/-- R101: RDBYTE takes the oldest byte out of the receive FIFO and returns it. -/
theorem execRdbyte_ok (h : execRdbyte i s = .next t) (hr : t.reply = .ok v) :
    ∃ b q, (s.uart i).rxFifo = b :: q ∧ v = some (zextByte b) ∧ t.uart i = { s.uart i with rxFifo := q } := by
  have hk := State.onInst_ok (State.inTask_ok h hr) hr
  split at hk
  · exact absurd hr (raise_not_ok hk)
  · next b q hq =>
    obtain rfl := State.okWith_next hk
    cases hr
    exact ⟨b, q, hq, rfl, State.uart_setUart_self _ _ _⟩

theorem execRdbyte_received {w : Word} (h : execRdbyte i s = .next t) (hr : t.reply = .ok (some w)) :
    ∃ b : Byte, w = b.setWidth 32 ∧ (b :: (t.uart i).received).Perm (s.uart i).received := by
  obtain ⟨b, q, hq, hw, ht⟩ := execRdbyte_ok h hr
  refine ⟨b, Option.some.inj hw, ?_⟩
  rw [ht]
  cases hd : (s.uart i).driver with
  | none => simp [Uart.received, hd, hq]
  | some d => simpa [Uart.received, hd, hq] using (List.perm_middle (l₁ := d.rxb.contents ++ d.aux.contents)).symm

/-- R127: RXGET answers 0, or takes the oldest byte out of `RXB` and returns it. -/
theorem execRxget_ok (h : execRxget i s = .next t) (hr : t.reply = .ok v) :
    v = some 0 ∨ ∃ d b l, (s.uart i).driver = some d ∧ d.rxb.viewBytes 1 = b :: l ∧ v = some (rxgetByte b) ∧
      t.uart i = { s.uart i with driver := some { d with rxb := d.rxb.consume 1 } } := by
  obtain ⟨d, hd, hf⟩ := State.onBound_ok (State.onInst_ok (State.inTask_ok h hr) hr) hr
  have hk := State.withLock_ok hf hr
  split at hk
  · obtain rfl := State.okWith_next hk
    cases hr
    exact .inl rfl
  · next b l hview =>
    obtain rfl := State.okWith_next hk
    cases hr
    exact .inr ⟨d, b, l, hd, hview, rfl, State.uart_setDriver_self _ _ _⟩

/-- A buffer whose view shows the byte `b` holds `b` first, then what is left after a consume. -/
theorem Ring.Wf.contents_of_viewBytes_one {cap : Nat} {r : Ring} {b : Byte} {l : List Byte} (h : r.Wf cap)
    (hview : r.viewBytes 1 = b :: l) : r.contents = b :: (r.consume 1).contents := by
  rw [Ring.viewBytes_one h] at hview
  cases hc : r.contents with
  | nil => rw [hc] at hview; cases hview
  | cons a q =>
    have hused : 1 ≤ r.used := by rw [← Ring.contents_length, hc]; exact Nat.le_add_left 1 _
    rw [hc] at hview
    obtain rfl : a = b := (List.cons.inj hview).1
    rw [(Ring.consume_contents h hused).1, hc]
    rfl

theorem execRxget_received {w : Word} (hs : s.Inv) (h : execRxget i s = .next t) (hr : t.reply = .ok (some w))
    (hw : w ≠ 0) :
    ∃ b : Byte, w = 0x100 ||| b.setWidth 32 ∧ (s.uart i).received = b :: (t.uart i).received := by
  obtain hz | ⟨d, b, l, hd, hview, hb, ht⟩ := execRxget_ok h hr
  · exact absurd (Option.some.inj hz) hw
  · have hrxb := ((hs.uarts i).driver d hd).rxb.contents_of_viewBytes_one hview
    refine ⟨b, Option.some.inj hb, ?_⟩
    rw [ht, Uart.received_bound hd, Uart.received_bound rfl, hrxb]
    rfl

/-- R203: DEINIT drops the driver state, the buffers with it, and leaves the FIFO. -/
theorem execDeinit_received (h : execDeinit i s = .next t) (hr : t.reply = .ok v) :
    (t.uart i).received = (s.uart i).rxFifo := by
  obtain ⟨d, -, hk⟩ := State.onBound_ok (State.onInst_ok (State.inTask_ok h hr) hr) hr
  split at hk
  · exact absurd hr (raise_not_ok hk)
  · rw [State.ok_next hk, State.setReply_uart, State.uart_setUart_self]
    exact Uart.received_unbound rfl

/-- Settles O58, word by word: the moves keep the bytes, and each of the four other operations says its own. -/
theorem receivedBytesAreConserved : Obligations.ReceivedBytesAreConserved := by
  intro x s t j hs h
  refine ⟨(exec_writes h).received_perm hs, ?_, ?_, ?_, ?_⟩
  · rintro b rfl
    exact execRxarrive_received h
  · rintro rfl w hr
    exact execRdbyte_received h hr
  · rintro rfl w hr hw
    exact execRxget_received hs h hr hw
  · rintro rfl hr
    exact execDeinit_received h hr

end Sys2Proof.Machine
end

section
/-! PROOFS. Words as bytes (20_memory.md R62). -/

namespace Sys2Proof

/-- Each byte joined to those above it gives the bits of the word from that byte up, and at the last one the word. -/
theorem wordOfBytes_wordToBytes (w : Word) : wordOfBytes (wordToBytes w) = some w := by
  have hjoin : w.extractLsb' 24 8 ++ w.extractLsb' 16 8 ++ w.extractLsb' 8 8 ++ w.extractLsb' 0 8 = w := by
    rw [BitVec.extractLsb'_append_extractLsb'_eq_extractLsb' (by rfl),
      BitVec.extractLsb'_append_extractLsb'_eq_extractLsb' (by rfl),
      BitVec.extractLsb'_append_extractLsb'_eq_extractLsb' (by rfl)]
    exact BitVec.extractLsb'_eq_self
  exact congrArg some hjoin

/-- Settles O7: the bytes read back as the word, and their places are those `wordToBytes` writes. -/
theorem wordBytesLittleEndian : Obligations.WordBytesLittleEndian := fun w =>
  ⟨wordOfBytes_wordToBytes w, rfl, rfl, rfl⟩

end Sys2Proof
end

section
/-! PROOFS. The order of the received bytes (20_memory.md R70, 70_reset_and_hazards.md R272). The bytes of a UART change
order only by a move of `R2` past `AUX`; the drain of a pass is ordered when it begins, since `R1` and `R1L` hand over
only when no byte can still go from `AUX` to `RXB`, and the operations that could undo that are held off or named. -/

namespace Sys2Proof.Machine

variable {s t w : State} {x : Instr} {i j : InstId} {u : Uart} {d : Driver} {k : Result} {z : Pass}

/-! ## Only PSTEP writes the dispatch sequencer (10_state.md R39) -/

/-- Every next state that `r` answers has the dispatch sequencer of `s`. -/
def KeepsPass (s : State) (r : Result) : Prop := ∀ t, r = .next t → t.pass = s.pass

namespace KeepsPass

theorem ok (h : w.pass = s.pass := by rfl) : KeepsPass s w.ok := fun _ ht => by rw [State.ok_next ht]; exact h

theorem okWith {v : Word} (h : w.pass = s.pass := by rfl) : KeepsPass s (w.okWith v) :=
  fun _ ht => by rw [State.okWith_next ht]; exact h

theorem hold : KeepsPass s s.hold := fun _ ht => by rw [State.hold_next ht]; rfl

theorem raise {c : FaultCode} : KeepsPass s (s.raise c) := fun _ ht => by rw [State.raise_next ht]

theorem ite {p : Prop} [Decidable p] {a b : Result} (ha : KeepsPass s a) (hb : KeepsPass s b) :
    KeepsPass s (if p then a else b) := by
  by_cases hp : p
  · rwa [if_pos hp]
  · rwa [if_neg hp]

theorem inTask (h : KeepsPass s k) : KeepsPass s (s.inTask k) := .ite hold h

theorem onInst (h : KeepsPass s k) : KeepsPass s (s.onInst i k) := .ite h raise

theorem withLock (h : KeepsPass s k) : KeepsPass s (s.withLock k) := .ite hold h

theorem onBound {f : Driver → Result} (h : ∀ d, KeepsPass s (f d)) : KeepsPass s (s.onBound i f) := fun t ht => by
  obtain ⟨-, hraise⟩ | ⟨d, -, hf⟩ := State.onBound_next ht
  · exact raise t hraise
  · exact h d t hf

theorem needDriver {f : Driver → Result} (h : ∀ d, KeepsPass s (f d)) : KeepsPass s (s.needDriver i f) :=
  fun t ht => by
    obtain ⟨d, -, hf⟩ := State.needDriver_next ht
    exact h d t hf

end KeepsPass

theorem enterHandler_keepsPass : KeepsPass s (s.enterHandler i) := fun t ht => by
  obtain ⟨-, rfl⟩ | ⟨-, rfl⟩ := State.enterHandler_next ht <;> rfl

theorem handlerI4L_keepsPass : KeepsPass s (handlerI4L i s) :=
  .needDriver fun _ => by
    split
    · exact .ite .ok .ok
    · exact .ite .ok .ok

/-- The handler never reaches the pass (42_interrupt_handler.md R140). -/
theorem handlerStep_keepsPass (ph : IsrPh) : KeepsPass s (handlerStep ph i s) := by
  cases ph with
  | idle => exact enterHandler_keepsPass
  | i2 => exact .needDriver fun _ => .ok
  | i3 => exact .ite (.needDriver fun _ => .ok) .ok
  | i4 => exact .ite (.needDriver fun _ => .ok) .ok
  | i4l => exact handlerI4L_keepsPass
  | i5 => exact .ite (.needDriver fun _ => .ok) .ok
  | i6 => exact .ite .ok .ok
  | i7a => exact .ok
  | i7b => exact .ok

theorem execRdbyte_keepsPass : KeepsPass s (execRdbyte i s) :=
  .inTask <| .onInst <| by
    split
    · exact .raise
    · exact .okWith

theorem execRxget_keepsPass : KeepsPass s (execRxget i s) :=
  .inTask <| .onInst <| .onBound fun _ => .withLock <| by
    split
    · exact .okWith
    · exact .okWith

theorem execRdcsr_keepsPass {n : Byte} : KeepsPass s (execRdcsr i n s) := by
  unfold execRdcsr
  split
  · exact .raise
  · exact .inTask <| .onInst .okWith
  · exact .inTask <| .onInst <| .onBound fun _ => .okWith

theorem execTxshift_keepsPass : KeepsPass s (execTxshift i s) :=
  .onInst <| by
    split
    · exact .hold
    · exact .ite .hold .okWith

theorem exec_keepsPass (s : State) (hx : x.agent ≠ .dispatch) : KeepsPass s (exec x s) := by
  cases x with
  | pstep i => exact absurd rfl hx
  | bavail | savail | intstat | busy => exact .inTask <| .onInst .okWith
  | rdbyte i => exact execRdbyte_keepsPass
  | wrbyte => exact .inTask <| .onInst <| .ite .raise .ok
  | inten | intdis | intclr => exact .inTask <| .onInst .ok
  | txput => exact .inTask <| .onInst <| .onBound fun _ => .withLock .okWith
  | rxget i => exact execRxget_keepsPass
  | irq => exact .onInst <| .ite .hold enterHandler_keepsPass
  | istep =>
    exact .onInst <| .ite (.ite enterHandler_keepsPass .hold) <| .ite .hold <| handlerStep_keepsPass _
  | dispatch | setrxen => exact .inTask <| .onInst <| .onBound fun _ => .ok
  | init =>
    exact .inTask <| .ite .okWith <| .ite .raise <| .ite .okWith <| .ite .okWith .okWith
  | deinit => exact .inTask <| .onInst <| .onBound fun _ => .ite .raise .ok
  | flush => exact .inTask <| .onInst <| .onBound fun _ => .ite .hold .ok
  | rdcsr i n => exact execRdcsr_keepsPass
  | rxarrive => exact .onInst <| .ite .ok <| .ite .ok .ok
  | rxtimeout | rxlevel | txlevel => exact .onInst <| .ite .hold .ok
  | txshift i => exact execTxshift_keepsPass

/-! ## An operation that changed something has passed its checks (60_exceptions.md R233) -/

/-- RXGET takes a byte only while the lock is free (41_ring_buffer.md R131). -/
theorem execRxget_lock_free (h : execRxget i s = .next t) (hne : t.uart j ≠ s.uart j) : s.pass.ph = .idle := by
  obtain ⟨-, rfl⟩ | ⟨-, h⟩ := State.inTask_next h
  · exact absurd rfl hne
  obtain ⟨-, h⟩ | ⟨-, h⟩ := State.onInst_next h
  · exact absurd (by rw [State.raise_next h]; rfl) hne
  obtain ⟨-, h⟩ | ⟨d, -, h⟩ := State.onBound_next h
  · exact absurd (by rw [State.raise_next h]; rfl) hne
  obtain ⟨-, rfl⟩ | ⟨hph, -⟩ := State.withLock_next h
  · exact absurd rfl hne
  · exact hph

/-- With a handler in flight ISTEP works on the UART it serves (42_interrupt_handler.md R142). -/
theorem execIstep_served (h : execIstep i s = .next t) (hph : s.isr.ph ≠ .idle) (hne : t.uart j ≠ s.uart j) :
    s.isr.inst = i := by
  obtain ⟨-, h⟩ | ⟨-, h⟩ := State.onInst_next h
  · exact absurd (by rw [State.raise_next h]; rfl) hne
  rw [if_neg hph] at h
  by_contra hi
  rw [if_pos hi] at h
  exact hne (by rw [State.hold_next h]; rfl)

/-- With a pass in flight PSTEP runs its next micro-operation, in task context and on its UART (43_dispatch.md
R161). -/
theorem execPstep_served (h : execPstep i s = .next t) (hph : s.pass.ph ≠ .idle)
    (hne : t.uart j ≠ s.uart j ∨ t.pass ≠ s.pass) :
    s.isr.ph = .idle ∧ s.pass.inst = i ∧ passStep s.pass.ph i s = .next t := by
  have kept (hu : t.uart j = s.uart j) (hp : t.pass = s.pass) : False := hne.elim (absurd hu) (absurd hp)
  obtain ⟨-, rfl⟩ | ⟨hisr, h⟩ := State.inTask_next h
  · exact (kept rfl rfl).elim
  obtain ⟨-, h⟩ | ⟨-, h⟩ := State.onInst_next h
  · obtain rfl := State.raise_next h
    exact (kept rfl rfl).elim
  rw [if_neg hph] at h
  by_cases hi : s.pass.inst = i
  · exact ⟨hisr, hi, by rwa [if_neg (not_not.mpr hi)] at h⟩
  · rw [if_pos hi] at h
    obtain rfl := State.hold_next h
    exact (kept rfl rfl).elim

/-! ## The order of the bytes held -/

/-- Two bound UARTs hold the same bytes in the same order if their buffers and FIFO do. -/
theorem Uart.received_eq_of_bound {u' : Uart} {d' : Driver} (hd : u.driver = some d) (hd' : u'.driver = some d')
    (h : d'.rxb.contents ++ d'.aux.contents ++ u'.rxFifo = d.rxb.contents ++ d.aux.contents ++ u.rxFifo) :
    u'.received = u.received := by
  rwa [Uart.received_bound hd, Uart.received_bound hd']

/-- A handler word or pass step leaves a UART the bytes it holds in their order, if no move of `R2` overtakes `AUX`. -/
theorem UartStep.received_eq (h : UartStep s x u) (hu : (s.uart x.inst).Wf s.params (s.fcSupported x.inst))
    (hx : x.agent = .interrupt ∨ x.agent = .dispatch)
    (hr2 : x = .pstep x.inst → s.pass.ph = .r2 → ∀ d, (s.uart x.inst).driver = some d →
      (s.uart x.inst).rxFifo ≠ [] → 0 < d.rxb.avail → d.aux.used = 0) :
    u.received = (s.uart x.inst).received := by
  cases h with
  | rdbyte | rxget | init | deinit | rxarrive | txput | setrxen => exact absurd hx (by simp [Instr.agent])
  | count hd | r3 hd | t1 hd => exact Uart.received_eq_of_bound hd rfl rfl
  | i4l hd hq hroom =>
    have haux := (hu.driver _ hd).aux.append_contents_of_avail hroom
    refine Uart.received_eq_of_bound hd rfl ?_
    simp only [Instr.inst, haux, hq, List.append_assoc, List.singleton_append]
  | r1l hd =>
    refine Uart.received_eq_of_bound hd rfl ?_
    rw [(hu.driver _ hd).moveAux_contents (Nat.min_le_left _ _)]
    rfl
  | @r2 i d b q hd hq hroom hph =>
    have hrxb := (hu.driver _ hd).rxb.append_contents_of_avail hroom
    have haux : d.aux.contents = [] := by
      rw [← List.length_eq_zero_iff, Ring.contents_length]
      exact hr2 rfl hph d hd (by rw [Instr.inst, hq]; nofun) hroom
    refine Uart.received_eq_of_bound hd rfl ?_
    simp only [Instr.inst, hrxb, haux, hq, List.append_nil, List.append_assoc, List.singleton_append]
  | _ => rfl

/-- No handler word or pass step reorders the bytes of a UART, but for a move of `R2` past `AUX` (R70). -/
theorem exec_received_eq (hs : s.Inv) (h : exec x s = .next t) (hx : x.agent = .interrupt ∨ x.agent = .dispatch)
    (hr2 : x = .pstep s.pass.inst → s.isr.ph = .idle → s.pass.ph = .r2 →
      ∀ d, (s.uart s.pass.inst).driver = some d → (s.uart s.pass.inst).rxFifo ≠ [] → 0 < d.rxb.avail →
        d.aux.used = 0) :
    (t.uart j).received = (s.uart j).received := by
  by_cases hne : t.uart j = s.uart j
  · rw [hne]
  obtain rfl := (exec_writes h).inst_of_ne hne
  refine (exec_writes h).uart.received_eq (hs.uarts _) hx fun hpstep hph => ?_
  rw [hpstep] at h
  obtain ⟨hisr, hinst, -⟩ := execPstep_served h (by rw [hph]; nofun) (.inl hne)
  rw [hinst] at hr2
  exact hr2 hpstep hisr hph

/-! ## The drain of a pass (43_dispatch.md R163 to R165) -/

/-- A move of `R2` on this UART, if there is one, overtakes nothing: what `State.drainOrdered` says of the UART of a pass
at `R2` or `R3`. -/
def Uart.DrainOrdered (u : Uart) : Prop := ∀ d, u.driver = some d → d.aux.used = 0 ∨ d.rxb.avail = 0

theorem State.drainOrdered_iff :
    s.drainOrdered ↔ (s.pass.ph = .r2 ∨ s.pass.ph = .r3 → (s.uart s.pass.inst).DrainOrdered) := Iff.rfl

theorem Uart.drainOrdered_of_bound (hd : u.driver = some d) (h : d.aux.used = 0 ∨ d.rxb.avail = 0) :
    u.DrainOrdered := fun _ he => by
  obtain rfl := Option.some.inj (hd.symm.trans he)
  exact h

theorem PassPh.goesTo_drain {p q : PassPh} (h : p.goesTo q = true) (hq : q = .r2 ∨ q = .r3) :
    (p = .r2 ∨ p = .r3) ∨ p = .r1 ∨ p = .r1l := by
  obtain rfl | rfl := hq
  · cases p with
    | r1 => exact .inr (.inl rfl)
    | r1l => exact .inr (.inr rfl)
    | _ => cases h
  · cases p with
    | r2 => exact .inl (.inl rfl)
    | _ => cases h

/-- A pass at `R2` or `R3` was there before, or came from `R1` or `R1L`; it stays on its UART. -/
theorem PassStep.drain_from (h : PassStep s x z) (hz : z.ph = .r2 ∨ z.ph = .r3) :
    z.inst = s.pass.inst ∧ ((s.pass.ph = .r2 ∨ s.pass.ph = .r3) ∨ s.pass.ph = .r1 ∨ s.pass.ph = .r1l) := by
  cases h with
  | keep | received | poll_miss => exact ⟨rfl, .inl hz⟩
  | take | leave => exact absurd hz (by simp)
  | poll_hit hph => exact ⟨rfl, .inl (.inr hph)⟩
  | advance hp => exact ⟨rfl, PassPh.goesTo_drain hp hz⟩

/-- `R1` goes to `R2` with `AUX` empty (43_dispatch.md R163). -/
theorem passR1_drainOrdered (h : passR1 i s = .next t) (ht : t.pass.ph = .r2 ∨ t.pass.ph = .r3) :
    (t.uart i).DrainOrdered := by
  obtain ⟨d, hd, h⟩ := State.needDriver_next h
  split at h
  · rw [State.ok_next h] at ht
    exact absurd ht (by simp)
  · next hempty =>
    rw [State.ok_next h]
    exact Uart.drainOrdered_of_bound hd (.inl (Nat.eq_zero_of_not_pos hempty))

/-- `R1L` goes to `R2` when `AUX` is empty or `RXB` full (43_dispatch.md R164). -/
theorem passR1L_drainOrdered (h : passR1L i s = .next t) (hph : s.pass.ph = .r1l)
    (ht : t.pass.ph = .r2 ∨ t.pass.ph = .r3) : (t.uart i).DrainOrdered := by
  obtain ⟨d, hd, h⟩ := State.needDriver_next h
  split at h
  · next hdone =>
    rw [State.ok_next h]
    exact Uart.drainOrdered_of_bound hd (Nat.min_eq_zero_iff.mp hdone).symm
  split at h
  · rw [State.raise_next h, hph] at ht
    exact absurd ht (by simp)
  · rw [State.ok_next h] at ht
    exact absurd ht (by simp [hph])

/-- A pass that has just come to the drain finds it ordered. -/
theorem exec_enters_drainOrdered (h : exec x s = .next t) (hph : s.pass.ph = .r1 ∨ s.pass.ph = .r1l)
    (ht : t.pass.ph = .r2 ∨ t.pass.ph = .r3) : (t.uart s.pass.inst).DrainOrdered := by
  have hmoved : t.pass ≠ s.pass := fun he => by
    rw [he] at ht
    obtain hph | hph := hph <;> simp [hph] at ht
  have hidle : s.pass.ph ≠ .idle := by obtain hph | hph := hph <;> rw [hph] <;> nofun
  cases x with
  | pstep i =>
    obtain ⟨-, rfl, h⟩ := execPstep_served (j := i) h hidle (.inr hmoved)
    obtain hph | hph := hph
    · rw [hph] at h
      exact passR1_drainOrdered h ht
    · rw [hph] at h
      exact passR1L_drainOrdered h hph ht
  | _ => exact absurd (exec_keepsPass s (by nofun) t h) hmoved

/-- While a pass drains, no operation on its UART but RXGET and a move of `I4L` undoes the order: `R2` moves only where
`AUX` is empty, and INIT and DEINIT leave nothing in `AUX`. -/
theorem UartStep.drainOrdered (h : UartStep s x u) (hph : s.pass.ph = .r2 ∨ s.pass.ph = .r3)
    (hget : x ≠ .rxget x.inst)
    (hi4l : x = .istep x.inst → s.isr.ph = .i4l → ∀ d, (s.uart x.inst).driver = some d →
      (s.uart x.inst).rxFifo = [] ∨ d.aux.avail = 0)
    (hord : (s.uart x.inst).DrainOrdered) : u.DrainOrdered := by
  cases h with
  | rxget => exact absurd rfl hget
  | init => exact Uart.drainOrdered_of_bound rfl (.inl rfl)
  | deinit => exact nofun
  | i4l hd hq hroom hisr =>
    obtain hempty | hfull := hi4l rfl hisr _ hd
    · exact absurd (hq.symm.trans hempty) nofun
    · exact absurd hfull hroom.ne'
  | r1l hd hr1l => exact absurd (hr1l ▸ hph) (by simp)
  | r2 hd hq hroom =>
    have haux := (hord _ hd).resolve_right hroom.ne'
    exact Uart.drainOrdered_of_bound rfl (.inl haux)
  | txput hd | setrxen hd | count hd | r3 hd | t1 hd =>
    have hkept := hord _ hd
    exact Uart.drainOrdered_of_bound rfl hkept
  | _ => exact hord

/-- The drain is ordered when the pass comes to it and stays so, but for a move of `I4L` on its UART (R272). -/
theorem exec_drainOrdered (h : exec x s = .next t) (hord : s.drainOrdered)
    (hi4l : x = .istep s.pass.inst → s.isr.ph = .i4l → s.isr.inst = s.pass.inst →
      s.pass.ph = .r2 ∨ s.pass.ph = .r3 → ∀ d, (s.uart s.pass.inst).driver = some d →
        (s.uart s.pass.inst).rxFifo = [] ∨ d.aux.avail = 0) :
    t.drainOrdered := by
  rw [State.drainOrdered_iff] at hord ⊢
  intro ht
  obtain ⟨hinst, hdrain | hbefore⟩ := (exec_writes h).pass.drain_from ht
  · rw [hinst]
    by_cases hne : t.uart s.pass.inst = s.uart s.pass.inst
    · rw [hne]
      exact hord hdrain
    have hx := (exec_writes h).inst_of_ne hne
    rw [hx] at hord hi4l hne ⊢
    refine (exec_writes h).uart.drainOrdered hdrain ?_ (fun histep hisr => ?_) (hord hdrain)
    · intro hget
      rw [hget] at h
      rw [execRxget_lock_free h hne] at hdrain
      exact absurd hdrain (by simp)
    · rw [histep] at h
      exact hi4l histep hisr (execIstep_served h (by rw [hisr]; nofun) hne) hdrain
  · rw [hinst]
    exact exec_enters_drainOrdered h hbefore ht

/-- Settles O59: the bytes keep their order, and the drain, ordered from its first step, stays so. -/
theorem streamOrderIsKept : Obligations.StreamOrderIsKept := by
  refine ⟨fun _ _ _ _ hs h hx hr2 => exec_received_eq hs h hx hr2, fun s hph ht => ?_, fun s d hord hph hd hroom => ?_,
    fun _ _ _ _ hord h hi4l => exec_drainOrdered h hord hi4l⟩
  · obtain hph | hph | hph := hph <;> simp [hph] at ht
  · exact (hord (.inl hph) d hd).resolve_right hroom.ne'

end Sys2Proof.Machine
end

section
/-! PROOFS. Encoding and decoding (30_encoding.md R81, R82, R84, R85). A word is its three fields joined; each format's
decoder answers exactly where the operand field is one the format lays out; so the decoder and the encoder are inverse. -/

namespace Sys2Proof

open Laws

variable {w : Word} {x : Instr}

/-! ## The fields of a word (R81) -/

theorem opcOf_append_instOf_append_operandOf (w : Word) : opcOf w ++ instOf w ++ operandOf w = w := by
  unfold opcOf instOf operandOf
  rw [BitVec.extractLsb'_append_extractLsb'_eq_extractLsb' (by rfl),
    BitVec.extractLsb'_append_extractLsb'_eq_extractLsb' (by rfl)]
  exact BitVec.extractLsb'_eq_self

theorem word_eq_append_iff {c : BitVec 6} {i : InstId} {o : BitVec 24} :
    w = c ++ i ++ o ↔ opcOf w = c ∧ instOf w = i ∧ operandOf w = o := by
  constructor
  · rintro rfl
    exact ⟨opcOf_append _ _ _, instOf_append _ _ _, operandOf_append _ _ _⟩
  · rintro ⟨rfl, rfl, rfl⟩
    exact (opcOf_append_instOf_append_operandOf w).symm

theorem encode_eq_iff : encode x = w ↔ opcOf w = x.opc ∧ instOf w = x.inst ∧ operandOf w = x.operand := by
  rw [eq_comm, encode, word_eq_append_iff]

theorem opcOf_and (v w : Word) : opcOf (v &&& w) = opcOf v &&& opcOf w := BitVec.extractLsb'_and

theorem instOf_and (v w : Word) : instOf (v &&& w) = instOf v &&& instOf w := BitVec.extractLsb'_and

theorem operandOf_and (v w : Word) : operandOf (v &&& w) = operandOf v &&& operandOf w := BitVec.extractLsb'_and

/-! ## The layouts of an operand (R82) -/

/-- An operand whose reserved bits are those from `n` up, as the decoder tests them. -/
theorem operand_eq_setWidth_iff {o : BitVec 24} {n m : Nat} {a : BitVec n} (hnm : n + m = 24) :
    o = a.setWidth 24 ↔ o.extractLsb' n m = 0 ∧ o.extractLsb' 0 n = a := by
  constructor
  · rintro rfl
    constructor
    · ext k hk
      simp
    · ext k hk
      have hplace : k < 24 := by omega
      simp [hk, hplace]
  · rintro ⟨hres, rfl⟩
    ext k hk
    by_cases hkn : k < n
    · simp [hkn, hk]
    · have hbit : (o.extractLsb' n m).getLsbD (k - n) = false := by simp [hres]
      have hclear : o[k] = false := by
        simpa [show k - n < m by omega, show n + (k - n) = k by omega, hk] using hbit
      simp [hkn, hclear]

/-- The same operand, as the masks of the opcode table test it. -/
theorem exists_operand_eq_setWidth_iff {o : BitVec 24} {n : Nat} :
    (∃ a : BitVec n, o = a.setWidth 24) ↔ o &&& ~~~(BitVec.allOnes n).setWidth 24 = 0 := by
  constructor
  · rintro ⟨a, rfl⟩
    ext k hk
    by_cases hkn : k < n
    · simp [hkn]
    · simp [BitVec.getLsbD_of_ge a k (by omega)]
  · intro hres
    refine ⟨o.setWidth n, ?_⟩
    ext k hk
    by_cases hkn : k < n
    · simp [hkn, hk]
    · have hbit : (o &&& ~~~(BitVec.allOnes n).setWidth 24).getLsbD k = false := by simp [hres]
      have hclear : o[k] = false := by simpa [hkn, hk] using hbit
      simp [hkn, hclear]

theorem extractLsb'_zero_one_eq_iff {o : BitVec 24} {f : Bool} :
    o.extractLsb' 0 1 = BitVec.ofBool f ↔ o.getLsbD 0 = f := by
  rw [BitVec.eq_of_getLsbD_eq_iff]
  simp

/-- Format C, which reserves no bit. -/
theorem operand_eq_cfg_iff {o : BitVec 24} {rxFc txFc : Bool} {l : BitVec 22} :
    o = BitVec.ofBool rxFc ++ BitVec.ofBool txFc ++ l ↔
      o.getLsbD 23 = rxFc ∧ o.getLsbD 22 = txFc ∧ o.extractLsb' 0 22 = l := by
  constructor
  · rintro rfl
    refine ⟨?_, ?_, BitVec.eq_of_getLsbD_eq fun k hk => ?_⟩
    · simp only [BitVec.getLsbD_append]
      simp
    · simp only [BitVec.getLsbD_append]
      simp
    · simp only [BitVec.getLsbD_extractLsb', BitVec.getLsbD_append]
      simp [hk]
  · rintro ⟨rfl, rfl, rfl⟩
    refine BitVec.eq_of_getLsbD_eq fun k hk => ?_
    have hplace : k < 22 ∨ k = 22 ∨ k = 23 := by omega
    simp only [BitVec.getLsbD_append]
    obtain hlow | rfl | rfl := hplace
    · simp [hlow]
    · simp
    · simp

/-! ## When the decoder of a format answers -/

theorem ite_error_eq_ok_iff {p : Prop} [Decidable p] {r : Except DecodeError Instr} {e : DecodeError} :
    (if p then r else .error e) = .ok x ↔ p ∧ r = .ok x := by
  split
  next hp => simp [hp]
  next hp => simp [hp]

theorem decodeN_eq_ok_iff {k : InstId → Instr} :
    decodeN w k = .ok x ↔ operandOf w = 0 ∧ k (instOf w) = x := by
  rw [decodeN, ite_error_eq_ok_iff, Except.ok.injEq]

theorem decodeB_eq_ok_iff {k : InstId → Byte → Instr} :
    decodeB w k = .ok x ↔ ∃ b, operandOf w = b.setWidth 24 ∧ k (instOf w) b = x := by
  simp only [decodeB, ite_error_eq_ok_iff, operand_eq_setWidth_iff (m := 16) rfl, and_assoc, exists_and_left,
    exists_eq_left', Except.ok.injEq]

theorem decodeM_eq_ok_iff {k : InstId → Mask → Instr} :
    decodeM w k = .ok x ↔ ∃ m, operandOf w = m.setWidth 24 ∧ k (instOf w) m = x := by
  simp only [decodeM, ite_error_eq_ok_iff, operand_eq_setWidth_iff (m := 20) rfl, and_assoc, exists_and_left,
    exists_eq_left', Except.ok.injEq]

theorem decodeF_eq_ok_iff {k : InstId → Bool → Instr} :
    decodeF w k = .ok x ↔ ∃ f, operandOf w = (BitVec.ofBool f).setWidth 24 ∧ k (instOf w) f = x := by
  simp only [decodeF, ite_error_eq_ok_iff, operand_eq_setWidth_iff (m := 23) rfl, extractLsb'_zero_one_eq_iff,
    and_assoc, exists_and_left, exists_eq_left', Except.ok.injEq]

theorem decodeR_eq_ok_iff {k : InstId → Byte → Instr} :
    decodeR w k = .ok x ↔ ∃ n, operandOf w = n.setWidth 24 ∧ csrListed n = true ∧ k (instOf w) n = x := by
  simp only [decodeR, ite_error_eq_ok_iff, operand_eq_setWidth_iff (m := 16) rfl, and_assoc, exists_and_left,
    exists_eq_left', Except.ok.injEq]

theorem decodeC_eq_ok_iff {k : InstId → Bool → Bool → BitVec 22 → Instr} :
    decodeC w k = .ok x ↔ ∃ rxFc txFc l,
      operandOf w = BitVec.ofBool rxFc ++ BitVec.ofBool txFc ++ l ∧ k (instOf w) rxFc txFc l = x := by
  simp only [decodeC, operand_eq_cfg_iff, and_assoc, exists_and_left, exists_eq_left', Except.ok.injEq]

/-! ## The decoder and the encoder are inverse (R85) -/

theorem decode_encode (hx : x.wf = true) : decode (encode x) = .ok x := by
  obtain ⟨hopc, hinst, hoperand⟩ := fields_of_encode x
  unfold decode
  rw [hopc]
  cases x with
  | bavail i | rdbyte i | savail i | busy i | rxget i | irq i | istep i | dispatch i | pstep i | deinit i | flush i
  | rxtimeout i | rxlevel i | txshift i | txlevel i =>
    exact decodeN_eq_ok_iff.2 ⟨hoperand, hinst ▸ rfl⟩
  | wrbyte i b | txput i b | rxarrive i b => exact decodeB_eq_ok_iff.2 ⟨b, hoperand, hinst ▸ rfl⟩
  | inten i m | intdis i m | intclr i m => exact decodeM_eq_ok_iff.2 ⟨m, hoperand, hinst ▸ rfl⟩
  | intstat i f | setrxen i f => exact decodeF_eq_ok_iff.2 ⟨f, hoperand, hinst ▸ rfl⟩
  | rdcsr i n => exact decodeR_eq_ok_iff.2 ⟨n, hoperand, hx, hinst ▸ rfl⟩
  | init i rxFc txFc l => exact decodeC_eq_ok_iff.2 ⟨rxFc, txFc, l, hoperand, hinst ▸ rfl⟩

/-- The goals of `split` are numbered as the rows of `decode`; those not named are the rows of format N. -/
theorem encode_of_decode_ok (h : decode w = .ok x) : x.wf = true ∧ encode x = w := by
  unfold decode at h
  split at h
  case h_4 hopc | h_10 hopc | h_21 hopc =>
    obtain ⟨b, hoperand, rfl⟩ := decodeB_eq_ok_iff.1 h
    exact ⟨rfl, encode_eq_iff.2 ⟨BitVec.eq_of_toNat_eq hopc, rfl, hoperand⟩⟩
  case h_6 hopc | h_7 hopc | h_8 hopc =>
    obtain ⟨m, hoperand, rfl⟩ := decodeM_eq_ok_iff.1 h
    exact ⟨rfl, encode_eq_iff.2 ⟨BitVec.eq_of_toNat_eq hopc, rfl, hoperand⟩⟩
  case h_5 hopc | h_18 hopc =>
    obtain ⟨f, hoperand, rfl⟩ := decodeF_eq_ok_iff.1 h
    exact ⟨rfl, encode_eq_iff.2 ⟨BitVec.eq_of_toNat_eq hopc, rfl, hoperand⟩⟩
  case h_20 hopc =>
    obtain ⟨n, hoperand, hlisted, rfl⟩ := decodeR_eq_ok_iff.1 h
    exact ⟨hlisted, encode_eq_iff.2 ⟨BitVec.eq_of_toNat_eq hopc, rfl, hoperand⟩⟩
  case h_16 hopc =>
    obtain ⟨rxFc, txFc, l, hoperand, rfl⟩ := decodeC_eq_ok_iff.1 h
    exact ⟨rfl, encode_eq_iff.2 ⟨BitVec.eq_of_toNat_eq hopc, rfl, hoperand⟩⟩
  case h_26 => exact absurd h nofun
  all_goals
    next hopc =>
    obtain ⟨hoperand, rfl⟩ := decodeN_eq_ok_iff.1 h
    exact ⟨rfl, encode_eq_iff.2 ⟨BitVec.eq_of_toNat_eq hopc, rfl, hoperand⟩⟩

theorem decode_eq_ok_iff : decode w = .ok x ↔ x.wf = true ∧ encode x = w := by
  refine ⟨encode_of_decode_ok, ?_⟩
  rintro ⟨hx, rfl⟩
  exact decode_encode hx

/-- Settles O1: the opcode of `encode x` selects the decoder of `x`'s format, and the operand is one it lays out. -/
theorem decodeOfEncode : Obligations.DecodeOfEncode := fun _ => decode_encode

/-- Settles O2: the decoder of the opcode's format answers only with the operation of that opcode and operand. -/
theorem encodeOfDecode : Obligations.EncodeOfDecode := fun _ _ => encode_of_decode_ok

/-- Settles O4: each of the four words is the word of the operation R85 names, so it decodes to it. -/
theorem workedExamplesDecode : Obligations.WorkedExamplesDecode :=
  ⟨decode_eq_ok_iff.2 ⟨rfl, rfl⟩, decode_eq_ok_iff.2 ⟨rfl, rfl⟩, decode_eq_ok_iff.2 ⟨rfl, rfl⟩,
    decode_eq_ok_iff.2 ⟨rfl, rfl⟩⟩

end Sys2Proof
end

section
/-! PROOFS. Legal words (30_encoding.md R84, R86). A row of the opcode table is an opcode and the number of operand bits
that are not reserved; the words of the rows are the words of the legal operations, so they are the words that decode. -/

namespace Sys2Proof.Machine

open Laws

variable {w : Word} {x : Instr}

/-! ## The opcode table by opcode and operand width -/

/-- The opcodes of R84, in its order, with the number of operand bits their formats do not reserve (R82). -/
def operandWidths : List (BitVec 6 × Nat) :=
  [(0x01, 0), (0x02, 0), (0x03, 0), (0x04, 8), (0x05, 1), (0x06, 4), (0x07, 4), (0x08, 4), (0x09, 0), (0x10, 8),
   (0x11, 0), (0x18, 0), (0x19, 0), (0x1A, 0), (0x1B, 0), (0x20, 24), (0x21, 0), (0x22, 1), (0x23, 0), (0x24, 8),
   (0x30, 8), (0x31, 0), (0x32, 0), (0x33, 0), (0x34, 0)]

/-- `match` and `mask` of an opcode and an operand width: the mask leaves out `inst` and the operand bits in use. -/
def tableRow (c : BitVec 6) (n : Nat) : Word × Word :=
  (c ++ 0#2 ++ 0#24, 0x3F#6 ++ 0#2 ++ ~~~(BitVec.allOnes n).setWidth 24)

theorem opcodeRows_eq : opcodeRows = operandWidths.map fun q => tableRow q.1 q.2 := rfl

theorem matches_tableRow_iff {c : BitVec 6} {n : Nat} :
    w &&& (tableRow c n).2 = (tableRow c n).1 ↔ opcOf w = c ∧ ∃ a : BitVec n, operandOf w = a.setWidth 24 := by
  rw [exists_operand_eq_setWidth_iff, tableRow, word_eq_append_iff, opcOf_and, instOf_and, operandOf_and, opcOf_append,
    instOf_append, operandOf_append, show 0x3F#6 = BitVec.allOnes 6 from rfl, BitVec.and_allOnes]
  simp

theorem tableRow_fst_eq_rdcsr_iff {c : BitVec 6} {n : Nat} : (tableRow c n).1 = 0x90000000 ↔ c = 0x24 := by
  rw [tableRow, show (0x90000000 : Word) = 0x24#6 ++ 0#2 ++ 0#24 from rfl, BitVec.append_left_inj,
    BitVec.append_left_inj]
  rfl

theorem toNat_and_0xFF (w : Word) : (w &&& 0xFF).toNat = ((operandOf w).setWidth 8).toNat := by
  simp [operandOf, Nat.and_two_pow_sub_one_eq_mod w.toNat 8]

/-- `w` matches the row of an opcode and an operand width and, if it is `RDCSR`, names a listed register. -/
structure InRow (w : Word) (q : BitVec 6 × Nat) : Prop where
  opc : opcOf w = q.1
  operand : ∃ a : BitVec q.2, operandOf w = a.setWidth 24
  csr : q.1 = 0x24 → csrListed ((operandOf w).setWidth 8) = true

theorem legalWord_iff_inRow : LegalWord w ↔ ∃ q ∈ operandWidths, InRow w q := by
  simp only [LegalWord, opcodeRows_eq, List.mem_map, exists_exists_and_eq_and, matches_tableRow_iff,
    tableRow_fst_eq_rdcsr_iff, toNat_and_0xFF]
  constructor
  · rintro ⟨q, hq, ⟨hopc, hoperand⟩, hcsr⟩
    exact ⟨q, hq, hopc, hoperand, fun h => decide_eq_true (hcsr h)⟩
  · rintro ⟨q, hq, hopc, hoperand, hcsr⟩
    exact ⟨q, hq, ⟨hopc, hoperand⟩, fun h => of_decide_eq_true (hcsr h)⟩

/-! ## From an operation to its row -/

theorem encode_inRow (hx : x.wf = true) : ∃ q ∈ operandWidths, InRow (encode x) q := by
  obtain ⟨hopc, -, hoperand⟩ := fields_of_encode x
  cases x with
  | bavail | rdbyte | savail | busy | rxget | irq | istep | dispatch | pstep | deinit | flush | rxtimeout | rxlevel
  | txshift | txlevel => exact ⟨(_, 0), by simp [operandWidths], hopc, ⟨0, hoperand⟩, by simp⟩
  | wrbyte _ b | txput _ b | rxarrive _ b =>
    exact ⟨(_, 8), by simp [operandWidths], hopc, ⟨b, hoperand⟩, by simp⟩
  | inten _ m | intdis _ m | intclr _ m =>
    exact ⟨(_, 4), by simp [operandWidths], hopc, ⟨m, hoperand⟩, by simp⟩
  | intstat _ f | setrxen _ f =>
    exact ⟨(_, 1), by simp [operandWidths], hopc, ⟨BitVec.ofBool f, hoperand⟩, by simp⟩
  | rdcsr _ n =>
    have hlisted : csrListed n = true := hx
    exact ⟨(0x24, 8), by simp [operandWidths], hopc, ⟨n, hoperand⟩, by simpa [hoperand, Instr.operand]⟩
  | init => exact ⟨(_, 24), by simp [operandWidths], hopc, ⟨_, (BitVec.setWidth_eq _).symm⟩, by simp⟩

/-! ## From a row to its operations -/

/-- Every word of the row is the word of a legal operation. -/
def NamesOperations (q : BitVec 6 × Nat) : Prop := ∀ w, InRow w q → ∃ x : Instr, x.wf = true ∧ encode x = w

namespace NamesOperations

variable {c : BitVec 6}

/-- A row whose `n` operand bits are one operand, with every value legal. -/
theorem value {n : Nat} (k : InstId → BitVec n → Instr)
    (hwf : ∀ i a, (k i a).wf = true := by exact fun _ _ => rfl)
    (hk : ∀ i a, encode (k i a) = c ++ i ++ a.setWidth 24 := by exact fun _ _ => rfl) : NamesOperations (c, n) := by
  rintro w ⟨hopc, ⟨a, hoperand⟩, -⟩
  exact ⟨k (instOf w) a, hwf _ _, (hk _ _).trans (word_eq_append_iff.2 ⟨hopc, rfl, hoperand⟩).symm⟩

theorem noOperand (k : InstId → Instr) (hwf : ∀ i, (k i).wf = true := by exact fun _ => rfl)
    (hk : ∀ i, encode (k i) = c ++ i ++ 0#24 := by exact fun _ => rfl) : NamesOperations (c, 0) :=
  value (fun i _ => k i) (fun i _ => hwf i) fun i a => by
    rw [hk, BitVec.of_length_zero (x := a)]
    rfl

theorem flag (k : InstId → Bool → Instr) (hwf : ∀ i f, (k i f).wf = true := by exact fun _ _ => rfl)
    (hk : ∀ i f, encode (k i f) = c ++ i ++ (BitVec.ofBool f).setWidth 24 := by exact fun _ _ => rfl) :
    NamesOperations (c, 1) :=
  value (fun i a => k i (a.getLsbD 0)) (fun i _ => hwf i _) fun i a => by
    rw [hk, show BitVec.ofBool (a.getLsbD 0) = a by decide +revert]

theorem rdcsr : NamesOperations (0x24, 8) := by
  rintro w ⟨hopc, ⟨n, hoperand⟩, hcsr⟩
  have hlisted : csrListed n = true := by simpa [hoperand] using hcsr rfl
  exact ⟨.rdcsr (instOf w) n, hlisted, encode_eq_iff.2 ⟨hopc, rfl, hoperand⟩⟩

theorem init : NamesOperations (0x20, 24) := fun w hw =>
  ⟨.init (instOf w) ((operandOf w).getLsbD 23) ((operandOf w).getLsbD 22) ((operandOf w).extractLsb' 0 22), rfl,
    encode_eq_iff.2 ⟨hw.opc, rfl, operand_eq_cfg_iff.2 ⟨rfl, rfl, rfl⟩⟩⟩

end NamesOperations

open NamesOperations in
/-- The rows of R84 by operation, in the order of the table. -/
theorem operandWidths_nameOperations : ∀ q ∈ operandWidths, NamesOperations q := by
  simp only [operandWidths, List.forall_mem_cons]
  exact ⟨noOperand .bavail, noOperand .rdbyte, noOperand .savail, value .wrbyte, flag .intstat, value .inten,
    value .intdis, value .intclr, noOperand .busy, value .txput, noOperand .rxget, noOperand .irq, noOperand .istep,
    noOperand .dispatch, noOperand .pstep, init, noOperand .deinit, flag .setrxen, noOperand .flush, rdcsr,
    value .rxarrive, noOperand .rxtimeout, noOperand .rxlevel, noOperand .txshift, noOperand .txlevel, nofun⟩

/-! ## A word decodes or is illegal (R86) -/

theorem exists_decode_eq_ok_iff_legalWord : (∃ x, decode w = .ok x) ↔ LegalWord w := by
  simp only [decode_eq_ok_iff, legalWord_iff_inRow]
  constructor
  · rintro ⟨x, hx, rfl⟩
    exact encode_inRow hx
  · rintro ⟨q, hq, hw⟩
    exact operandWidths_nameOperations q hq w hw

theorem step_of_not_legalWord {s : State} {p : PortWord} {rest : List PortWord} (h : s.port = p :: rest)
    (hp : ¬ LegalWord p.word) : step s = State.raise { s with port := rest, allocOk := p.allocOk } .illegalWord := by
  cases hd : decode p.word with
  | ok x => exact absurd (exists_decode_eq_ok_iff_legalWord.1 ⟨x, hd⟩) hp
  | error e => exact step_of_decode_error h hd

/-- Settles O3: the rows' words are the legal operations' words, and a word of no row takes the step that raises
`IllegalWord`. -/
theorem illegalWordsFault : Obligations.IllegalWordsFault :=
  ⟨fun _ => exists_decode_eq_ok_iff_legalWord, fun _ _ _ hport hp => step_of_not_legalWord hport hp⟩

end Sys2Proof.Machine
end

section
/-! PROOFS. The Hardware Register Interface (40_hw_register_interface.md). Its nine words have the two checks of R110
and then an effect: `BehindTaskChecks` names the effect; the checks, the reads and the writes are proved from it once. -/

namespace Sys2Proof.Machine

variable {s t : State} {x : Instr} {i : InstId} {u : Uart} {k : Result} {v : Word}

/-! ## Writing one instance -/

theorem frameShared_setUart (s : State) (i : InstId) (u : Uart) (o : Reply) :
    FrameShared i s ((s.setUart i u).setReply o) where
  others _ hj := State.uart_setUart_ne s u hj
  fault := rfl
  params := rfl
  port := rfl
  allocOk := rfl

theorem does_of_exec_setUart {o : Option Word} (h : exec x s = .next ((s.setUart i u).setReply (.ok o))) :
    Does x s i u s.isr s.pass o :=
  ⟨_, h, rfl, State.uart_setUart_self s i u, rfl, rfl, frameShared_setUart s i u _⟩

/-! ## The checks (R110) -/

/-- `x` at `s` checks the context and the instance range, in this order, and then does `k`. -/
def BehindTaskChecks (x : Instr) (s : State) (k : Result) : Prop := exec x s = s.inTask (s.onInst x.inst k)

namespace BehindTaskChecks

theorem taskChecks (h : BehindTaskChecks x s k) : TaskChecks x s := by
  refine ⟨fun hph => ?busy, fun hph hn => ?missing⟩
  case busy => exact h.trans (State.inTask_busy hph)
  case missing =>
    have hlacks : s.hasInst x.inst = false := by simpa [State.hasInst] using hn
    exact h.trans ((State.inTask_idle hph).trans (State.onInst_lacks hlacks))

theorem exec_eq (h : BehindTaskChecks x s k) (hr : TaskReady s x.inst) : exec x s = k := by
  obtain ⟨hph, hn⟩ := hr
  exact h.trans ((State.inTask_idle hph).trans (State.onInst_has (State.hasInst_iff.2 hn)))

theorem reads (h : BehindTaskChecks x s (s.okWith v)) (hr : TaskReady s x.inst) : Reads x s v := h.exec_eq hr

theorem writes (h : BehindTaskChecks x s (s.setUart x.inst u).ok) (hr : TaskReady s x.inst) :
    Does x s x.inst u s.isr s.pass none :=
  does_of_exec_setUart (h.exec_eq hr)

end BehindTaskChecks

/-! ## Results and operands of one bit (00_scope.md R12, 30_encoding.md R82) -/

theorem zextBit_decide (p : Prop) [Decidable p] : zextBit (decide p) = if p then 1 else 0 := by
  split
  · next hp => rw [decide_eq_true hp]; rfl
  · next hp => rw [decide_eq_false hp]; rfl

theorem setWidth_ofBool (f : Bool) : (BitVec.ofBool f).setWidth 24 = if f then 1 else 0 := by
  cases f <;> rfl

/-! ## The words that read: BAVAIL, SAVAIL, BUSY (R100, R103, R109) and INTSTAT (R105) -/

theorem reads_bavail (h : TaskReady s i) :
    Reads (.bavail i) s (if 0 < (s.uart i).rxFifo.length then 1 else 0) := by
  rw [← zextBit_decide]
  exact BehindTaskChecks.reads (x := .bavail i) rfl h

theorem reads_savail (h : TaskReady s i) :
    Reads (.savail i) s (if (s.uart i).txFifo.length < s.params.hwTxDepth then 1 else 0) := by
  rw [← zextBit_decide]
  exact BehindTaskChecks.reads (x := .savail i) rfl h

theorem reads_busy (h : TaskReady s i) :
    Reads (.busy i) s (if 0 < (s.uart i).txFifo.length then 1 else 0) := by
  rw [← zextBit_decide]
  exact BehindTaskChecks.reads (x := .busy i) rfl h

theorem reads_intstat {f : Bool} (h : TaskReady s i) :
    Reads (.intstat i f) s
      (if f then ((s.uart i).ris &&& (s.uart i).im).setWidth 32 else (s.uart i).ris.setWidth 32) := by
  have hstatus : Reads (.intstat i f) s (zextMask (if f then (s.uart i).mis else (s.uart i).ris)) :=
    BehindTaskChecks.reads (x := .intstat i f) rfl h
  cases f with
  | true => exact hstatus
  | false => exact hstatus

/-- Settles O17: past the checks each of the four words answers with its result at `s` itself. -/
theorem levelAndStatusReads : Obligations.LevelAndStatusReads := by
  intro i f s
  refine ⟨⟨rfl, BehindTaskChecks.taskChecks rfl, reads_bavail⟩,
    ⟨rfl, BehindTaskChecks.taskChecks rfl, reads_savail⟩, ⟨rfl, BehindTaskChecks.taskChecks rfl, reads_busy⟩,
    ?encoding, BehindTaskChecks.taskChecks rfl, reads_intstat⟩
  case encoding => rw [← setWidth_ofBool]; rfl

/-! ## The words that move a byte: RDBYTE (R101) and WRBYTE (R104) -/

theorem exec_rdbyte_of_nil (h : TaskReady s i) (hq : (s.uart i).rxFifo = []) :
    exec (.rdbyte i) s = s.raise .rxFifoUnderrun :=
  (BehindTaskChecks.exec_eq (x := .rdbyte i) rfl h).trans (by rw [hq])

theorem exec_rdbyte_of_cons {b : Byte} {q : List Byte} (h : TaskReady s i) (hq : (s.uart i).rxFifo = b :: q) :
    exec (.rdbyte i) s = (s.setUart i { s.uart i with rxFifo := q }).okWith (zextByte b) :=
  (BehindTaskChecks.exec_eq (x := .rdbyte i) rfl h).trans (by rw [hq])

theorem exec_wrbyte {b : Byte} (h : TaskReady s i) :
    exec (.wrbyte i b) s = if (s.uart i).txFifo.length = s.params.hwTxDepth then s.raise .txFifoOverrun
      else (s.setUart i { s.uart i with txFifo := (s.uart i).txFifo ++ [b] }).ok :=
  BehindTaskChecks.exec_eq (x := .wrbyte i b) rfl h

/-- Settles O18: past the checks the receive FIFO is empty, which is the fault, or has a head, which is taken. -/
theorem rdbyteTakesOldestByte : Obligations.RdbyteTakesOldestByte :=
  fun _ _ => ⟨rfl, BehindTaskChecks.taskChecks rfl, fun hr =>
    ⟨exec_rdbyte_of_nil hr, fun _ _ hq => does_of_exec_setUart (exec_rdbyte_of_cons hr hq)⟩⟩

/-- Settles O19: past the checks the transmit FIFO is exactly full, which is the fault, or takes the byte. -/
theorem wrbyteAppendsByte : Obligations.WrbyteAppendsByte :=
  fun _ _ _ => ⟨rfl, BehindTaskChecks.taskChecks rfl, fun hr =>
    ⟨fun hfull => (exec_wrbyte hr).trans (if_pos hfull),
      fun hroom => does_of_exec_setUart ((exec_wrbyte hr).trans (if_neg hroom.ne))⟩⟩

/-! ## The words that write masks: INTEN, INTDIS, INTCLR (R106, R107, R108) -/

theorem enterHandler_ok (s : State) (i : InstId) : ∃ t, s.enterHandler i = .next t ∧ t.reply = .ok none := by
  cases hd : (s.uart i).driver with
  | none => exact ⟨_, State.enterHandler_unbound hd, rfl⟩
  | some d => exact ⟨_, State.enterHandler_bound hd, rfl⟩

/-- R142: in task context an asserted line lets `ISTEP` enter the handler. -/
theorem exec_istep_of_requesting (h : TaskReady s i) (hreq : (s.uart i).requesting = true) :
    exec (.istep i) s = s.enterHandler i := by
  obtain ⟨hph, hn⟩ := h
  calc exec (.istep i) s
    _ = if s.isr.ph = .idle then if (s.uart i).requesting then s.enterHandler i else s.hold
        else if s.isr.inst ≠ i then s.hold else handlerStep s.isr.ph i s := State.onInst_has (State.hasInst_iff.2 hn)
    _ = s.enterHandler i := by rw [if_pos hph, if_pos hreq]

theorem exec_inten {m : Mask} (h : TaskReady s i) :
    exec (.inten i m) s = (s.setUart i { s.uart i with im := (s.uart i).im ||| m }).ok :=
  BehindTaskChecks.exec_eq (x := .inten i m) rfl h

/-- A pending source asserts the line as soon as it is unmasked (R28), whatever else is masked. -/
theorem and_or_ne_zero_of_pending {ris m : Mask} (hpend : ris &&& m ≠ 0) (im : Mask) : ris &&& (im ||| m) ≠ 0 := by
  rw [← anyBits_iff, anyBits_or, (anyBits_iff ris m).2 hpend, Bool.or_true]

theorem inten_asserts_line {m : Mask} (h : TaskReady s i) (hpend : (s.uart i).ris &&& m ≠ 0)
    (ht : exec (.inten i m) s = .next t) : TaskReady t i ∧ (t.uart i).ris &&& (t.uart i).im ≠ 0 := by
  rw [State.ok_next ((exec_inten h).symm.trans ht), State.setReply_uart, State.uart_setUart_self]
  exact ⟨h, and_or_ne_zero_of_pending hpend _⟩

theorem inten_then_istep {m : Mask} (h : TaskReady s i) (hpend : (s.uart i).ris &&& m ≠ 0)
    (ht : exec (.inten i m) s = .next t) :
    (t.uart i).ris &&& (t.uart i).im ≠ 0 ∧ ∃ v, exec (.istep i) t = .next v ∧ v.reply = .ok none := by
  obtain ⟨hready, hline⟩ := inten_asserts_line h hpend ht
  rw [exec_istep_of_requesting hready (decide_eq_true hline)]
  exact ⟨hline, enterHandler_ok t i⟩

/-- Settles O20: past the checks each word writes one mask of its instance; after `INTEN` the line of a pending source
it named is asserted, so `ISTEP` enters the handler. -/
theorem maskWordsWriteNamedBits : Obligations.MaskWordsWriteNamedBits := fun i m _ =>
  ⟨⟨rfl, BehindTaskChecks.taskChecks rfl, fun hr =>
      ⟨does_of_exec_setUart (exec_inten hr), fun hpend _ ht => inten_then_istep hr hpend ht⟩⟩,
    ⟨rfl, BehindTaskChecks.taskChecks rfl, BehindTaskChecks.writes (x := .intdis i m) rfl⟩,
    ⟨rfl, BehindTaskChecks.taskChecks rfl, BehindTaskChecks.writes (x := .intclr i m) rfl⟩⟩

end Sys2Proof.Machine
end

section
/-! PROOFS. The ring buffer and the host's access to the main buffers (41_ring_buffer.md). One operation on a
well-formed buffer keeps the queue equation of R132, old contents and bytes in against bytes out and new contents; runs
compose it. `TXPUT` and `RXGET` share their four checks: `BehindLock` names what comes after them. -/

namespace Sys2Proof.Machine

variable {s : State} {x : Instr} {i : InstId} {d : Driver} {k : Driver → Result} {cap : Nat} {b : Ring}

/-! ## One operation is first in, first out (R121 to R124) -/

theorem Ring.Wf.append_fifo (h : b.Wf cap) (v : Byte) :
    b.contents ++ (if (b.append v).2 = 1 then [v] else []) = (b.append v).1.contents := by
  rcases Ring.append_cases h v with ⟨-, hfull⟩ | ⟨-, htaken, -, -, hcontents⟩
  · rw [hfull, if_neg Nat.zero_ne_one, List.append_nil]
  · rw [htaken, if_pos rfl, hcontents]

theorem Ring.Wf.appendN_fifo (h : b.Wf cap) (vs : List Byte) :
    b.contents ++ vs.take (b.appendN vs).2 = (b.appendN vs).1.contents := by
  obtain ⟨-, hcount, -, hcontents⟩ := Ring.appendN_contents (bs := vs) h
  rw [hcount, hcontents, List.take_eq_take_min (i := b.avail), Nat.min_comm]

/-- Bytes viewed and then consumed are the oldest ones, in order. -/
theorem Ring.Wf.view_consume_fifo (h : b.Wf cap) {m c : Nat} (hc : c ≤ (b.getView m).2) :
    b.contents = (b.viewBytes m).take c ++ (b.consume c).contents := by
  have hused : c ≤ b.used := hc.trans (Ring.getView_count_le_used b m)
  rw [Ring.viewBytes_eq_take h, (Ring.consume_contents h hused).1, List.take_take, min_eq_left hc,
    List.take_append_drop]

/-! ## Runs of operations (R132) -/

/-- The queue equations of two runs, one after the other, give the equation of the whole. -/
theorem fifo_trans {c₀ c₁ c₂ in₁ in₂ out₁ out₂ : List Byte} (h₁ : c₀ ++ in₁ = out₁ ++ c₁)
    (h₂ : c₁ ++ in₂ = out₂ ++ c₂) : c₀ ++ (in₁ ++ in₂) = (out₁ ++ out₂) ++ c₂ := by
  rw [← List.append_assoc, h₁, List.append_assoc, h₂, List.append_assoc]

/-- Settles O21, by induction on the operations: the equation of the first one, then that of the rest. -/
theorem ringIsAFifo : Obligations.RingIsAFifo := by
  intro cap b ops h
  induction ops generalizing b with
  | nil => exact ⟨h, List.append_nil _⟩
  | cons op ops ih =>
    cases op with
    | put v =>
      obtain ⟨hwf, hrest⟩ := ih _ (Ring.append_wf h v)
      exact ⟨hwf, fifo_trans (out₁ := []) (h.append_fifo v) hrest⟩
    | putAll vs =>
      obtain ⟨hwf, hrest⟩ := ih _ (Ring.appendN_contents h).1
      exact ⟨hwf, fifo_trans (out₁ := []) (h.appendN_fifo vs) hrest⟩
    | take m n =>
      obtain ⟨hwf, hrest⟩ := ih _ (Ring.consume_wf h (n := min n (b.getView m).2))
      have hfirst := h.view_consume_fifo (m := m) (Nat.min_le_right n _)
      exact ⟨hwf, fifo_trans (in₁ := []) ((List.append_nil _).trans hfirst) hrest⟩

/-! ## The contract of each primitive (R122, R123, R124) -/

theorem Ring.Wf.getView_eq (h : b.Wf cap) (m : Nat) :
    b.getView m = (b.head, min m (min b.used (cap - b.head))) := by
  rw [← h.cap_eq]; rfl

/-- R123: a view is empty only if nothing was asked for or nothing is there. -/
theorem Ring.Wf.getView_count_eq_zero_iff (h : b.Wf cap) (m : Nat) : (b.getView m).2 = 0 ↔ m = 0 ∨ b.used = 0 := by
  have hpos := Ring.getView_count_pos h (m := m)
  omega

theorem Ring.Wf.consume_head (h : b.Wf cap) (n : Nat) : (b.consume n).head = (b.head + n) % cap := by
  rw [← h.cap_eq]; rfl

/-- Settles O22: one clause per primitive. -/
theorem ringPrimitivesMeetContract : Obligations.RingPrimitivesMeetContract := by
  intro cap b h
  refine ⟨fun bs => ?appendN, fun m => ?getView, fun n hn => ?consume⟩
  case appendN =>
    obtain ⟨hwf, hcount, -, hcontents⟩ := Ring.appendN_contents (bs := bs) h
    exact ⟨hcount, hwf, hcontents⟩
  case getView => exact ⟨h.getView_eq m, h.getView_count_eq_zero_iff m, Ring.viewBytes_eq_take h m⟩
  case consume =>
    obtain ⟨hcontents, hused⟩ := Ring.consume_contents h hn
    exact ⟨Ring.consume_wf h, hused, h.consume_head n, hcontents⟩

/-! ## The checks of TXPUT and RXGET (60_exceptions.md R233, 41_ring_buffer.md R131) -/

/-- `x` at `s` checks the context, the instance range, the driver state and the lock, in this order, and then does
`k`. -/
def BehindLock (x : Instr) (s : State) (k : Driver → Result) : Prop :=
  BehindTaskChecks x s (s.onBound x.inst fun d => s.withLock (k d))

namespace BehindLock

theorem boundChecks (h : BehindLock x s k) : BoundChecks x s :=
  ⟨BehindTaskChecks.taskChecks h, fun hr hd => (BehindTaskChecks.exec_eq h hr).trans (State.onBound_none hd)⟩

theorem exec_eq_withLock (h : BehindLock x s k) (hr : TaskReady s x.inst) (hd : (s.uart x.inst).driver = some d) :
    exec x s = s.withLock (k d) :=
  (BehindTaskChecks.exec_eq h hr).trans (State.onBound_some hd)

theorem holds (h : BehindLock x s k) (hr : TaskReady s x.inst) (hd : (s.uart x.inst).driver = some d)
    (hp : s.pass.ph ≠ .idle) : Holds x s :=
  (h.exec_eq_withLock hr hd).trans (State.withLock_taken hp)

theorem exec_eq (h : BehindLock x s k) (hr : TaskReady s x.inst) (hd : (s.uart x.inst).driver = some d)
    (hp : s.pass.ph = .idle) : exec x s = k d :=
  (h.exec_eq_withLock hr hd).trans (State.withLock_free hp)

end BehindLock

/-! ## TXPUT (R126) -/

theorem State.setDriver_self (hd : (s.uart i).driver = some d) : s.setDriver i d = s := by
  have hu : { s.uart i with driver := some d } = s.uart i := by rw [← hd]
  rw [State.setDriver, hu, State.setUart, State.uart, Vector.set_getElem_self]

theorem txput_behindLock (i : InstId) (v : Byte) (s : State) : BehindLock (.txput i v) s fun d =>
    (s.setDriver i { d with txb := (d.txb.append v).1 }).okWith (countWord (d.txb.append v).2) := rfl

/-- R121: a full buffer stays as it is, and the count is 0. -/
theorem reads_txput_of_full {v : Byte} (hr : TaskReady s i) (hd : (s.uart i).driver = some d)
    (hp : s.pass.ph = .idle) (hfull : d.txb.used = d.txb.cap) : Reads (.txput i v) s 0 := by
  have hexec := (txput_behindLock i v s).exec_eq hr hd hp
  rw [Ring.append_full hfull] at hexec
  exact hexec.trans (congrArg (State.okWith · 0) (State.setDriver_self hd))

theorem does_txput_of_taken {v : Byte} (hr : TaskReady s i) (hd : (s.uart i).driver = some d)
    (hp : s.pass.ph = .idle) (htaken : (d.txb.append v).2 = 1) :
    Does (.txput i v) s i { s.uart i with driver := some { d with txb := (d.txb.append v).1 } } s.isr s.pass
      (some 1) := by
  have hexec := (txput_behindLock i v s).exec_eq hr hd hp
  rw [htaken] at hexec
  exact does_of_exec_setUart hexec

theorem Ring.append_head (b : Ring) (v : Byte) : (b.append v).1.head = b.head := by
  unfold Ring.append
  split
  · rfl
  · rfl

/-- Settles O23: past the checks `TXB` is full, which drives 0, or takes the byte. -/
theorem txputAppendsToMainBuffer : Obligations.TxputAppendsToMainBuffer := by
  intro i v s
  refine ⟨rfl, (txput_behindLock i v s).boundChecks, fun d hr hd hwf =>
    ⟨(txput_behindLock i v s).holds hr hd, fun hp hfull => ?full, fun hp hroom => ?room⟩⟩
  case full => exact reads_txput_of_full hr hd hp (hfull.trans hwf.cap_eq.symm)
  case room =>
    obtain ⟨hfull, -⟩ | ⟨-, htaken, hwf', hused, hcontents⟩ := Ring.append_cases hwf v
    · exact absurd hfull hroom.ne
    · exact ⟨_, hwf', Ring.append_head _ v, hused, hcontents, does_txput_of_taken hr hd hp htaken⟩

/-! ## RXGET (R127) -/

theorem rxget_behindLock (i : InstId) (s : State) : BehindLock (.rxget i) s fun d =>
    match d.rxb.viewBytes 1 with
    | [] => s.okWith 0
    | b :: _ => (s.setDriver i { d with rxb := d.rxb.consume 1 }).okWith (rxgetByte b) := rfl

theorem reads_rxget_of_nil (hr : TaskReady s i) (hd : (s.uart i).driver = some d) (hp : s.pass.ph = .idle)
    (hview : d.rxb.viewBytes 1 = []) : Reads (.rxget i) s 0 :=
  ((rxget_behindLock i s).exec_eq hr hd hp).trans (by rw [hview]; rfl)

theorem does_rxget_of_cons {v : Byte} {l : List Byte} (hr : TaskReady s i) (hd : (s.uart i).driver = some d)
    (hp : s.pass.ph = .idle) (hview : d.rxb.viewBytes 1 = v :: l) :
    Does (.rxget i) s i { s.uart i with driver := some { d with rxb := d.rxb.consume 1 } } s.isr s.pass
      (some (0x100 ||| v.setWidth 32)) :=
  does_of_exec_setUart (((rxget_behindLock i s).exec_eq hr hd hp).trans (by rw [hview]; rfl))

/-- Settles O24: past the checks a view of one byte shows the oldest byte of `RXB`, or none if there is none. -/
theorem rxgetTakesFromMainBuffer : Obligations.RxgetTakesFromMainBuffer := by
  intro i s
  refine ⟨rfl, (rxget_behindLock i s).boundChecks, fun d hr hd hwf =>
    ⟨(rxget_behindLock i s).holds hr hd, fun hp hempty => ?empty, fun v rest hp hcontents => ?byte⟩⟩
  case empty => exact reads_rxget_of_nil hr hd hp (by rw [Ring.viewBytes_one hwf, hempty]; rfl)
  case byte =>
    have hview : d.rxb.viewBytes 1 = [v] := by rw [Ring.viewBytes_one hwf, hcontents]; rfl
    have hleft : v :: rest = v :: (d.rxb.consume 1).contents :=
      hcontents.symm.trans (hwf.contents_of_viewBytes_one hview)
    exact ⟨d.rxb.consume 1, Ring.consume_wf hwf, hwf.consume_head 1, rfl, (List.cons.inj hleft).2.symm,
      does_rxget_of_cons hr hd hp hview⟩

end Sys2Proof.Machine
end

section
/-! PROOFS. The Interrupt Handler (42_interrupt_handler.md), word by word. `HandlerAt` says which micro-operation the
next `ISTEP` runs; a lemma per phase gives its whole effect (`Does`), and the three that test a bit and count share
one. -/

namespace Sys2Proof.Machine

variable {s t w : State} {x : Instr} {i : InstId} {u : Uart} {y y₁ y₂ : Isr} {d : Driver} {ph : IsrPh} {k : Result}

/-! ## Writing the interrupt sequencer -/

theorem does_of_exec_setIsr (h : exec x s = (s.setIsr y).ok) : Does x s i (s.uart i) y s.pass none :=
  ⟨_, h, rfl, rfl, rfl, rfl, fun _ _ => rfl, rfl, rfl, rfl, rfl⟩

theorem does_of_exec_setUart_setIsr (h : exec x s = ((s.setUart i u).setIsr y).ok) :
    Does x s i u y s.pass none :=
  ⟨_, h, rfl, State.uart_setUart_self s i u, rfl, rfl, fun _ hj => State.uart_setUart_ne s u hj, rfl, rfl, rfl, rfl⟩

/-! ## The words IRQ and ISTEP outside a handler (R141, R142, R143, R152) -/

theorem rangeCheck_of_exec_onInst (h : exec x s = s.onInst x.inst k) : RangeCheck x s := fun hn =>
  h.trans (State.onInst_lacks (by simpa [State.hasInst] using hn))

theorem exec_irq (hn : i.toNat < s.params.numInst) :
    exec (.irq i) s = if s.isr.ph ≠ .idle then s.hold else s.enterHandler i :=
  State.onInst_has (State.hasInst_iff.2 hn)

theorem exec_irq_of_idle (h : TaskReady s i) : exec (.irq i) s = s.enterHandler i := by
  obtain ⟨hph, hn⟩ := h
  rw [exec_irq hn, if_neg (not_not.2 hph)]

theorem exec_istep (hn : i.toNat < s.params.numInst) :
    exec (.istep i) s =
      if s.isr.ph = .idle then if (s.uart i).requesting then s.enterHandler i else s.hold
      else if s.isr.inst ≠ i then s.hold else handlerStep s.isr.ph i s :=
  State.onInst_has (State.hasInst_iff.2 hn)

theorem requesting_iff : u.requesting = true ↔ u.ris &&& u.im ≠ 0 := decide_eq_true_iff

/-- R143: entry to the handler of a bound UART snapshots its masked status and writes nothing else. -/
theorem does_of_exec_enterHandler (h : exec x s = s.enterHandler i) (hd : (s.uart i).driver ≠ none) :
    Does x s i (s.uart i)
      { ph := .i2, inst := i, snap := (s.uart i).ris &&& (s.uart i).im, dis := 0, fired := false } s.pass none := by
  obtain ⟨d, hd⟩ := Option.ne_none_iff_exists'.1 hd
  exact does_of_exec_setIsr (h.trans (State.enterHandler_bound hd))

/-- Settles O25: past the range check a handler in flight holds the word, and else it is entered. -/
theorem irqEntersHandler : Obligations.IrqEntersHandler := fun _ _ =>
  ⟨rfl, rangeCheck_of_exec_onInst rfl, fun hn =>
    ⟨fun hph => (exec_irq hn).trans (if_pos hph),
      fun hph hd => (exec_irq_of_idle ⟨hph, hn⟩).trans (State.enterHandler_unbound hd),
      fun hph hd => does_of_exec_enterHandler (exec_irq_of_idle ⟨hph, hn⟩) hd⟩⟩

/-- Settles O26: past the range check the request line decides at `IDLE`, and the UART served decides else. -/
theorem istepEntersHandler : Obligations.IstepEntersHandler := by
  intro i s
  refine ⟨rfl, rangeCheck_of_exec_onInst rfl, fun hn =>
    ⟨fun hph hi => ?other, fun hph hline => ?quiet, fun hph hline hd => ?unbound, fun hph hline hd => ?bound⟩⟩
  case other => rw [Holds, exec_istep hn, if_neg hph, if_pos hi]; rfl
  case quiet => rw [Holds, exec_istep hn, if_pos hph, if_neg (requesting_iff.not.2 (not_not.2 hline))]; rfl
  case unbound =>
    exact (exec_istep_of_requesting ⟨hph, hn⟩ (requesting_iff.2 hline)).trans (State.enterHandler_unbound hd)
  case bound => exact does_of_exec_enterHandler (exec_istep_of_requesting ⟨hph, hn⟩ (requesting_iff.2 hline)) hd

/-! ## The micro-operation of the phase (R142) -/

theorem HandlerAt.driver (h : HandlerAt s ph i d) : (s.uart i).driver = some d := by
  obtain ⟨-, -, -, hd⟩ := h
  exact hd

theorem HandlerAt.exec_istep (h : HandlerAt s ph i d) (hph : ph ≠ .idle) :
    exec (.istep i) s = handlerStep ph i s := by
  obtain ⟨rfl, hi, hn, -⟩ := h
  rw [Machine.exec_istep hn, if_neg hph, if_neg (not_not.2 hi)]

/-! ## The counting micro-operations I2, I3, I4, I5 (R144, R145, R146, R148) -/

/-- R144: the interrupt is counted whatever the snapshot. -/
theorem HandlerAt.does_i2 (h : HandlerAt s .i2 i d) :
    Does (.istep i) s i { s.uart i with driver := some { d with stats := d.stats.countedAt .i2 } }
      { s.isr with ph := .i3 } s.pass none :=
  does_of_exec_setUart_setIsr ((h.exec_istep nofun).trans (State.needDriver_some h.driver))

/-- What R145, R146 and R148 have in common: the phase `ph` counts and goes to `y₁` if the snapshot has a bit of `m`,
and else only goes to `y₂`. -/
theorem does_of_exec_countIf {m : Mask} (hd : (s.uart i).driver = some d)
    (h : exec x s =
      if anyBits s.isr.snap m then
        s.needDriver i fun e => ((s.setDriver i { e with stats := e.stats.countedAt ph }).setIsr y₁).ok
      else (s.setIsr y₂).ok) :
    (s.isr.snap &&& m ≠ 0 →
        Does x s i { s.uart i with driver := some { d with stats := d.stats.countedAt ph } } y₁ s.pass none) ∧
      (s.isr.snap &&& m = 0 → Does x s i (s.uart i) y₂ s.pass none) := by
  refine ⟨fun hset => ?set, fun hclear => ?clear⟩
  case set =>
    rw [if_pos ((anyBits_iff _ _).2 hset), State.needDriver_some hd] at h
    exact does_of_exec_setUart_setIsr h
  case clear =>
    rw [if_neg ((anyBits_iff _ _).not.2 (not_not.2 hclear))] at h
    exact does_of_exec_setIsr h

theorem HandlerAt.does_i3 (h : HandlerAt s .i3 i d) :
    (s.isr.snap &&& maskOe ≠ 0 →
        Does (.istep i) s i { s.uart i with driver := some { d with stats := d.stats.countedAt .i3 } }
          { s.isr with ph := .i4, fired := true } s.pass none) ∧
      (s.isr.snap &&& maskOe = 0 → Does (.istep i) s i (s.uart i) { s.isr with ph := .i4 } s.pass none) :=
  does_of_exec_countIf h.driver (h.exec_istep nofun)

theorem HandlerAt.does_i4 (h : HandlerAt s .i4 i d) :
    (s.isr.snap &&& rxInts ≠ 0 →
        Does (.istep i) s i { s.uart i with driver := some { d with stats := d.stats.countedAt .i4 } }
          { s.isr with ph := .i4l, fired := true } s.pass none) ∧
      (s.isr.snap &&& rxInts = 0 → Does (.istep i) s i (s.uart i) { s.isr with ph := .i5 } s.pass none) :=
  does_of_exec_countIf h.driver (h.exec_istep nofun)

theorem HandlerAt.does_i5 (h : HandlerAt s .i5 i d) :
    (s.isr.snap &&& maskTx ≠ 0 →
        Does (.istep i) s i { s.uart i with driver := some { d with stats := d.stats.countedAt .i5 } }
          { s.isr with ph := .i6, dis := setBits s.isr.dis txInts, fired := true } s.pass none) ∧
      (s.isr.snap &&& maskTx = 0 → Does (.istep i) s i (s.uart i) { s.isr with ph := .i6 } s.pass none) :=
  does_of_exec_countIf h.driver (h.exec_istep nofun)

/-- Settles O27: `I2` counts unconditionally, the others by the bits of the snapshot that they test. -/
theorem handlerCountsBySnapshot : Obligations.HandlerCountsBySnapshot := fun _ _ _ =>
  ⟨HandlerAt.does_i2, HandlerAt.does_i3, HandlerAt.does_i4, HandlerAt.does_i5⟩

/-! ## The drain loop I4L (R147) -/

theorem HandlerAt.does_i4l_move {b : Byte} {q : List Byte} (h : HandlerAt s .i4l i d)
    (hq : (s.uart i).rxFifo = b :: q) (hroom : 0 < d.aux.avail) :
    Does (.istep i) s i { s.uart i with rxFifo := q, driver := some { d with aux := (d.aux.append b).1 } } s.isr s.pass
      none := by
  have hexec := (h.exec_istep nofun).trans (State.needDriver_some h.driver)
  simp only [hq, if_pos hroom] at hexec
  exact does_of_exec_setUart hexec

/-- The loop ends when the receive FIFO is empty or `AUX` is full, and a full `AUX` is what marks the receive
interrupts. -/
theorem HandlerAt.does_i4l_end (h : HandlerAt s .i4l i d) (hend : (s.uart i).rxFifo = [] ∨ d.aux.avail = 0) :
    Does (.istep i) s i (s.uart i)
      { s.isr with ph := .i5, dis := if d.aux.avail = 0 then setBits s.isr.dis rxInts else s.isr.dis } s.pass none := by
  have hexec := (h.exec_istep nofun).trans (State.needDriver_some h.driver)
  refine does_of_exec_setIsr (hexec.trans ?_)
  by_cases hfull : d.aux.avail = 0
  · cases (s.uart i).rxFifo <;> simp [hfull]
  · simp [hend.resolve_right hfull, hfull, Nat.pos_of_ne_zero hfull]

/-- Settles O28: with a byte and room the loop moves the byte; otherwise it ends. -/
theorem handlerDrainsFifoIntoAux : Obligations.HandlerDrainsFifoIntoAux := by
  intro i s d h hwf
  refine ⟨fun b q hq hroom => ?move, fun hfull => ?full, fun hnil hroom => ?empty⟩
  case move =>
    have hspace := hwf.used_add_avail
    obtain ⟨hused, -⟩ | ⟨-, -, hwf', hused, hcontents⟩ := Ring.append_cases hwf b
    · omega
    · exact ⟨_, hwf', Ring.append_head _ b, hused, hcontents, h.does_i4l_move hq hroom⟩
  case full =>
    have hdoes := h.does_i4l_end (.inr hfull)
    rw [if_pos hfull] at hdoes
    exact hdoes
  case empty =>
    have hdoes := h.does_i4l_end (.inl hnil)
    rw [if_neg hroom.ne'] at hdoes
    exact hdoes

/-! ## The request, the masks and the return: I6, I7A, I7B (R149, R150, R151) -/

theorem HandlerAt.exec_i6 (h : HandlerAt s .i6 i d) :
    exec (.istep i) s =
      if s.isr.fired then ((s.setUart i { s.uart i with dispReq := true }).setIsr { s.isr with ph := .i7a }).ok
      else (s.setIsr { s.isr with ph := .i7a }).ok :=
  h.exec_istep nofun

theorem HandlerAt.does_i6_of_fired (h : HandlerAt s .i6 i d) (hf : s.isr.fired = true) :
    Does (.istep i) s i { s.uart i with dispReq := true } { s.isr with ph := .i7a } s.pass none :=
  does_of_exec_setUart_setIsr (h.exec_i6.trans (if_pos hf))

theorem HandlerAt.does_i6_of_not_fired (h : HandlerAt s .i6 i d) (hf : s.isr.fired = false) :
    Does (.istep i) s i (s.uart i) { s.isr with ph := .i7a } s.pass none :=
  does_of_exec_setIsr (h.exec_i6.trans (if_neg (ne_true_of_eq_false hf)))

theorem HandlerAt.does_i7a (h : HandlerAt s .i7a i d) :
    Does (.istep i) s i { s.uart i with im := clearBits (s.uart i).im s.isr.dis } { s.isr with ph := .i7b } s.pass
      none :=
  does_of_exec_setUart_setIsr (h.exec_istep nofun)

theorem HandlerAt.does_i7b (h : HandlerAt s .i7b i d) :
    Does (.istep i) s i { s.uart i with ris := clearBits (s.uart i).ris s.isr.snap } (idleIsr s.draws) s.pass none := by
  have hexec : exec (.istep i) s = s.leaveHandler i := h.exec_istep nofun
  obtain ⟨hu, hothers, hisr, hpass, hfault, hparams, hport, halloc, hreply, -⟩ :=
    State.leaveHandler_next (s := s) (i := i) rfl
  exact ⟨_, hexec, hreply, hu, hisr, hpass, hothers, hfault, hparams, hport, halloc⟩

/-- Settles O29: one clause per micro-operation, and `I6` by `fired`. -/
theorem handlerRequestsMasksAndReturns : Obligations.HandlerRequestsMasksAndReturns := fun _ s _ =>
  ⟨fun h => ⟨h.does_i6_of_fired, h.does_i6_of_not_fired⟩, HandlerAt.does_i7a,
    fun h => ⟨idleIsr s.draws, rfl, h.does_i7b⟩⟩

/-! ## Once entered the handler neither holds nor faults (R140) -/

/-- The outcome is ok, with no result. -/
def IsOk (r : Result) : Prop := ∃ t, r = .next t ∧ t.reply = .ok none

namespace IsOk

theorem ok : IsOk w.ok := ⟨_, rfl, rfl⟩

theorem ite {p : Prop} [Decidable p] {a b : Result} (ha : IsOk a) (hb : IsOk b) : IsOk (if p then a else b) := by
  split
  · exact ha
  · exact hb

theorem needDriver {f : Driver → Result} (hd : (s.uart i).driver = some d) (h : IsOk (f d)) :
    IsOk (s.needDriver i f) := by
  rwa [State.needDriver_some hd]

end IsOk

theorem handlerStep_isOk (ph : IsrPh) (hd : (s.uart i).driver = some d) : IsOk (handlerStep ph i s) := by
  cases ph with
  | idle => exact enterHandler_ok s i
  | i2 => exact .needDriver hd .ok
  | i3 => exact .ite (.needDriver hd .ok) .ok
  | i4 => exact .ite (.needDriver hd .ok) .ok
  | i4l =>
    refine .needDriver hd ?_
    split
    · exact .ite .ok .ok
    · exact .ite .ok .ok
  | i5 => exact .ite (.needDriver hd .ok) .ok
  | i6 => exact .ite .ok .ok
  | i7a => exact .ok
  | i7b => exact .ok

/-- R140: the invariant binds the UART served (60_exceptions.md R245), so its next micro-operation is ok. -/
theorem exec_istep_served_isOk (hs : s.Inv) (hph : s.isr.ph ≠ .idle) : IsOk (exec (.istep s.isr.inst) s) := by
  obtain ⟨hi, hb⟩ := hs.isrBound hph
  obtain ⟨d, hd⟩ := State.bound_iff.1 hb
  have hat : HandlerAt s s.isr.ph s.isr.inst d := ⟨rfl, rfl, State.hasInst_iff.1 hi, hd⟩
  rw [hat.exec_istep hph]
  exact handlerStep_isOk _ hd

/-! ## The handler stays on its own side (R140, R154) -/

/-- What the handler leaves of a UART that it found as `u`: it writes only `RXFIFO`, `AUX`, its own four counters,
`RIS`, the request, and `IM` downwards. -/
structure TaskSideKept (u u' : Uart) : Prop where
  txFifo : u'.txFifo = u.txFifo
  pen : u'.pen = u.pen
  rtr : u'.rtr = u.rtr
  txLine : u'.txLine = u.txLine
  rxLost : u'.rxLost = u.rxLost
  im : ∀ k, u'.im.getLsbD k = true → u.im.getLsbD k = true
  unbound : u.driver = none → u'.driver = none
  bound : ∀ d, u.driver = some d → ∃ e, u'.driver = some e ∧ e.cfg = d.cfg ∧ e.rxEnabled = d.rxEnabled ∧
    e.rxb = d.rxb ∧ e.txb = d.txb ∧ e.stats.rxBytes = d.stats.rxBytes ∧ e.stats.txBytes = d.stats.txBytes ∧
    e.stats.rxLingerConts = d.stats.rxLingerConts

theorem TaskSideKept.refl (u : Uart) : TaskSideKept u u :=
  ⟨rfl, rfl, rfl, rfl, rfl, fun _ hk => hk, id, fun d hd => ⟨d, hd, rfl, rfl, rfl, rfl, rfl, rfl, rfl⟩⟩

/-- A counting micro-operation writes no counter of the task side (10_state.md R37). -/
theorem Stats.countedAt_taskSide (c : Stats) (ph : IsrPh) :
    (c.countedAt ph).rxBytes = c.rxBytes ∧ (c.countedAt ph).txBytes = c.txBytes ∧
      (c.countedAt ph).rxLingerConts = c.rxLingerConts := by
  cases ph <;> exact ⟨rfl, rfl, rfl⟩

theorem getLsbD_of_clearBits {a m : Mask} {k : Nat} (h : (clearBits a m).getLsbD k = true) : a.getLsbD k = true := by
  rw [clearBits_getLsbD _ _ (BitVec.lt_of_getLsbD h), Bool.and_eq_true] at h
  exact h.1

theorem UartStep.taskSideKept (h : UartStep s x u) (hx : x.agent = .interrupt) :
    TaskSideKept (s.uart x.inst) u := by
  cases h with
  | keep => exact .refl _
  | request => exact { TaskSideKept.refl _ with }
  | count hd hc =>
    refine { TaskSideKept.refl _ with unbound := fun hn => absurd (hn.symm.trans hd) nofun, bound := fun e he => ?_ }
    obtain rfl := Option.some.inj (hd.symm.trans he)
    subst hc
    exact ⟨_, rfl, rfl, rfl, rfl, rfl, Stats.countedAt_taskSide _ _⟩
  | i4l hd =>
    refine { TaskSideKept.refl _ with unbound := fun hn => absurd (hn.symm.trans hd) nofun, bound := fun e he => ?_ }
    obtain rfl := Option.some.inj (hd.symm.trans he)
    exact ⟨_, rfl, rfl, rfl, rfl, rfl, rfl, rfl, rfl⟩
  | i7a => exact { TaskSideKept.refl _ with im := fun _ hk => getLsbD_of_clearBits hk }
  | i7b => exact { TaskSideKept.refl _ with }
  | _ => cases hx

theorem Writes.taskSideKept (h : Writes s x t) (hx : x.agent = .interrupt) (j : InstId) :
    TaskSideKept (s.uart j) (t.uart j) := by
  by_cases hj : j = x.inst
  · subst hj
    exact h.uart.taskSideKept hx
  · rw [h.others j hj]
    exact .refl _

/-- Settles O30: a handler in flight has its driver state, so each micro-operation runs to its end; and what a word of
the interrupt sequencer can write keeps the task side. -/
theorem handlerStaysInItsContext : Obligations.HandlerStaysInItsContext := by
  refine ⟨fun s => exec_istep_served_isOk, fun x s t j hx h => ?_⟩
  obtain ⟨htx, hpen, hrtr, hline, hlost, him, hunbound, hbound⟩ := (exec_writes h).taskSideKept hx j
  exact ⟨exec_keepsPass s (by rw [hx]; nofun) t h, htx, hpen, hrtr, hline, hlost, him, hunbound, hbound⟩

end Sys2Proof.Machine
end

section
/-! PROOFS. A whole invocation of the handler with nothing interleaved (42_interrupt_handler.md R153, R156, R157).
`HandlerEnds` says how many words the handler has left, and what it leaves of its UART; it is proved for each phase
from the phase after it, back from the return `I7B` to `I2`. -/

namespace Sys2Proof.Machine

variable {s t w : State} {x : Instr} {i : InstId} {n : Nat} {u u₁ u' : Uart} {y y₁ : Isr} {d : Driver} {ph : IsrPh}

/-! ## Runs of ISTEP -/

theorem isrRun_succ_of_inFlight (h : exec (.istep i) s = .next w) (hw : w.isr.ph ≠ .idle) (n : Nat) :
    isrRun i (n + 1) s = isrRun i n w := by
  simp only [isrRun, h, if_neg hw]

theorem isrRun_succ_of_idle (h : exec (.istep i) s = .next w) (hw : w.isr.ph = .idle) (n : Nat) :
    isrRun i (n + 1) s = .next w := by
  simp only [isrRun, h, if_pos hw]

theorem FrameShared.trans (h₁ : FrameShared i s w) (h₂ : FrameShared i w t) : FrameShared i s t where
  others j hj := (h₂.others j hj).trans (h₁.others j hj)
  fault := h₂.fault.trans h₁.fault
  params := h₂.params.trans h₁.params
  port := h₂.port.trans h₁.port
  allocOk := h₂.allocOk.trans h₁.allocOk

/-- From `s` the handler of `i` returns after exactly `n` words, in `t`. -/
structure HandlerReturns (i : InstId) (n : Nat) (s t : State) : Prop where
  inFlight : ∀ k, k < n → ∃ w, isrRun i k s = .next w ∧ w.isr.ph ≠ .idle
  run : isrRun i n s = .next t
  idle : t.isr.ph = .idle
  reply : t.reply = .ok none
  pass : t.pass = s.pass
  frame : FrameShared i s t

theorem HandlerReturns.one (hs : s.isr.ph ≠ .idle) (h : exec (.istep i) s = .next t) (ht : t.isr.ph = .idle)
    (hreply : t.reply = .ok none) (hpass : t.pass = s.pass) (hframe : FrameShared i s t) :
    HandlerReturns i 1 s t where
  inFlight k hk := by
    obtain rfl := Nat.lt_one_iff.1 hk
    exact ⟨s, rfl, hs⟩
  run := isrRun_succ_of_idle h ht 0
  idle := ht
  reply := hreply
  pass := hpass
  frame := hframe

theorem HandlerReturns.cons (hs : s.isr.ph ≠ .idle) (h : exec (.istep i) s = .next w) (hw : w.isr.ph ≠ .idle)
    (hpass : w.pass = s.pass) (hframe : FrameShared i s w) (hrest : HandlerReturns i n w t) :
    HandlerReturns i (n + 1) s t where
  inFlight
    | 0, _ => ⟨s, rfl, hs⟩
    | k + 1, hk => by
      rw [isrRun_succ_of_inFlight h hw]
      exact hrest.inFlight k (Nat.lt_of_succ_lt_succ hk)
  run := (isrRun_succ_of_inFlight h hw n).trans hrest.run
  idle := hrest.idle
  reply := hrest.reply
  pass := hrest.pass.trans hpass
  frame := hframe.trans hrest.frame

theorem anyBits_eq_false_iff (x m : Mask) : anyBits x m = false ↔ x &&& m = 0 := by
  simp [anyBits]

/-! ## What the handler leaves, from what it finds -/

/-- The sequencer `y` is at `ph` and serves the UART `i`, found as `u` and bound with driver state `d`. -/
structure Serving (y : Isr) (ph : IsrPh) (i : InstId) (u : Uart) (d : Driver) : Prop where
  ph : y.ph = ph
  inst : y.inst = i
  driver : u.driver = some d

/-- The handler that has the sequencer at `y` and its UART `i` at `u` returns after exactly `n` words, and leaves
`u'`, whatever the rest of the block is. -/
def HandlerEnds (i : InstId) (n : Nat) (u : Uart) (y : Isr) (u' : Uart) : Prop :=
  ∀ s : State, i.toNat < s.params.numInst → s.uart i = u → s.isr = y → ∃ t, HandlerReturns i n s t ∧ t.uart i = u'

/-- One word, with its effect as `Does` gives it, before the rest. -/
theorem HandlerEnds.cons (u₁ : Uart) (y₁ : Isr) (hy : Serving y ph i u d) (hph : ph ≠ .idle)
    (hstep : ∀ s, HandlerAt s ph i d → s.uart i = u → s.isr = y → Does (.istep i) s i u₁ y₁ s.pass none)
    (hrest : HandlerEnds i n u₁ y₁ u') (hph₁ : y₁.ph ≠ .idle := by nofun) : HandlerEnds i (n + 1) u y u' := by
  rintro s hn rfl rfl
  obtain ⟨w, hexec, -, hu, hisr, hpass, hframe⟩ := hstep s ⟨hy.ph, hy.inst, hn, hy.driver⟩ rfl rfl
  obtain ⟨t, hreturns, ht⟩ := hrest w (by rwa [hframe.params]) hu hisr
  have hw : w.isr.ph ≠ .idle := by rwa [hisr]
  exact ⟨t, .cons (by rwa [hy.ph]) hexec hw hpass hframe hreturns, ht⟩

/-- R151: the return. -/
theorem handlerEnds_i7b (hy : Serving y .i7b i u d) :
    HandlerEnds i 1 u y { u with ris := clearBits u.ris y.snap } := by
  rintro s hn rfl rfl
  have hat : HandlerAt s .i7b i d := ⟨hy.ph, hy.inst, hn, hy.driver⟩
  obtain ⟨t, hexec, hreply, hu, hisr, hpass, hframe⟩ := hat.does_i7b
  exact ⟨t, .one (by rw [hy.ph]; nofun) hexec (by rw [hisr]; rfl) hreply hpass hframe, hu⟩

/-- R150: the disable mask is applied, then the return. -/
theorem handlerEnds_i7a (hy : Serving y .i7a i u d) :
    HandlerEnds i 2 u y { u with ris := clearBits u.ris y.snap, im := clearBits u.im y.dis } :=
  .cons { u with im := clearBits u.im y.dis } { y with ph := .i7b } hy nofun
    (by rintro s hat rfl rfl; exact hat.does_i7a) (handlerEnds_i7b ⟨rfl, hy.inst, hy.driver⟩)

/-- The UART `u` as the handler leaves it: with the driver state `d`, the snapshot's bits cleared, the disable mask
applied, and a dispatch requested if anything fired. -/
def Uart.leftBy (u : Uart) (d : Driver) (snap dis : Mask) (fired : Bool) : Uart :=
  { u with
    driver := some d
    ris := clearBits u.ris snap
    im := clearBits u.im dis
    dispReq := if fired then true else u.dispReq }

theorem Uart.leftBy_of_driver (hd : u.driver = some d) (snap dis : Mask) (fired : Bool) :
    u.leftBy d snap dis fired =
      { u with
        ris := clearBits u.ris snap
        im := clearBits u.im dis
        dispReq := if fired then true else u.dispReq } := by
  rw [Uart.leftBy, ← hd]

/-- R149: `fired` as `I6` finds it says whether a dispatch is requested. -/
theorem handlerEnds_i6 (hy : Serving y .i6 i u d) : HandlerEnds i 3 u y (u.leftBy d y.snap y.dis y.fired) := by
  rw [Uart.leftBy_of_driver hy.driver]
  cases hf : y.fired with
  | true =>
    exact .cons { u with dispReq := true } { y with ph := .i7a } hy nofun
      (by rintro s hat rfl rfl; exact hat.does_i6_of_fired hf)
      (handlerEnds_i7a ⟨rfl, hy.inst, hy.driver⟩)
  | false =>
    exact .cons u { y with ph := .i7a } hy nofun (by rintro s hat rfl rfl; exact hat.does_i6_of_not_fired hf)
      (handlerEnds_i7a ⟨rfl, hy.inst, hy.driver⟩)

/-- The counters after the micro-operation `ph` that counts if the bit `b` it tests is set. -/
def Stats.countedIf (c : Stats) (ph : IsrPh) (b : Bool) : Stats := if b then c.countedAt ph else c

/-- The UART `u` as the handler leaves it from `I5` on. -/
def Uart.leftFromI5 (u : Uart) (d : Driver) (snap dis : Mask) (fired : Bool) : Uart :=
  u.leftBy { d with stats := d.stats.countedIf .i5 (anyBits snap maskTx) } snap
    (if anyBits snap maskTx then setBits dis txInts else dis) (anyBits snap maskTx || fired)

/-- R148: the transmit interrupt, by the snapshot. -/
theorem handlerEnds_i5 (hy : Serving y .i5 i u d) :
    HandlerEnds i 4 u y (u.leftFromI5 d y.snap y.dis y.fired) := by
  unfold Uart.leftFromI5
  cases ht : anyBits y.snap maskTx with
  | true =>
    exact .cons { u with driver := some { d with stats := d.stats.countedAt .i5 } }
      { y with ph := .i6, dis := setBits y.dis txInts, fired := true } hy nofun
      (by rintro s hat rfl rfl; exact hat.does_i5.1 ((anyBits_iff _ _).1 ht))
      (handlerEnds_i6 ⟨rfl, hy.inst, rfl⟩)
  | false =>
    exact .cons u { y with ph := .i6 } hy nofun
      (by rintro s hat rfl rfl; exact hat.does_i5.2 ((anyBits_eq_false_iff _ _).1 ht))
      (handlerEnds_i6 ⟨rfl, hy.inst, hy.driver⟩)

/-! ## The drain (R147) -/

/-- The disable mask at the end of the drain: the receive interrupts are marked if `AUX` is full then. -/
def drainDis (dis : Mask) (aux : Ring) : Mask := if aux.avail = 0 then setBits dis rxInts else dis

theorem handlerEnds_i4l_end (hy : Serving y .i4l i u d) (hend : u.rxFifo = [] ∨ d.aux.avail = 0) :
    HandlerEnds i 5 u y (u.leftFromI5 d y.snap (drainDis y.dis d.aux) y.fired) :=
  .cons u { y with ph := .i5, dis := drainDis y.dis d.aux } hy nofun
    (by rintro s hat rfl rfl; exact hat.does_i4l_end hend) (handlerEnds_i5 ⟨rfl, hy.inst, hy.driver⟩)

theorem Ring.appendN_cons_of_taken {b : Ring} {v : Byte} (h : (b.append v).2 = 1) (vs : List Byte) :
    b.appendN (v :: vs) = (((b.append v).1.appendN vs).1, ((b.append v).1.appendN vs).2 + 1) := by
  simp [Ring.appendN, h]

theorem Ring.appendN_cons_of_full {b : Ring} {v : Byte} (h : b.append v = (b, 0)) (vs : List Byte) :
    b.appendN (v :: vs) = (b, 0) := by
  simp [Ring.appendN, h]

/-- R147, by induction on the receive FIFO: the loop moves what `append_n` would take, and one more visit ends it. -/
theorem handlerEnds_i4l {cap : Nat} {q : List Byte} (hy : Serving y .i4l i u d) (hwf : d.aux.Wf cap)
    (hq : u.rxFifo = q) :
    HandlerEnds i ((d.aux.appendN q).2 + 5) u y
      (Uart.leftFromI5 { u with rxFifo := q.drop (d.aux.appendN q).2 } { d with aux := (d.aux.appendN q).1 }
        y.snap (drainDis y.dis (d.aux.appendN q).1) y.fired) := by
  induction q generalizing u d with
  | nil =>
    rw [Ring.appendN, List.drop_nil, ← hq]
    exact handlerEnds_i4l_end hy (.inl hq)
  | cons b q ih =>
    obtain ⟨hused, happend⟩ | ⟨hroom, htaken, hwf', -⟩ := Ring.append_cases hwf b
    · have hfull : d.aux.avail = 0 := by have hspace := hwf.used_add_avail; omega
      rw [Ring.appendN_cons_of_full happend, List.drop_zero, ← hq]
      exact handlerEnds_i4l_end hy (.inr hfull)
    · have havail : 0 < d.aux.avail := by have hspace := hwf.used_add_avail; omega
      have hrest := ih (u := { u with rxFifo := q, driver := some { d with aux := (d.aux.append b).1 } })
        ⟨hy.ph, hy.inst, rfl⟩ hwf' rfl
      rw [Ring.appendN_cons_of_taken htaken]
      exact .cons _ y hy nofun (by rintro s hat rfl rfl; exact hat.does_i4l_move hq havail) hrest (by rw [hy.ph]; nofun)

/-! ## From the entry (R144, R145, R146) -/

/-- R146 with a receive interrupt in the snapshot: the drain follows. -/
theorem handlerEnds_i4_drain {cap : Nat} (hy : Serving y .i4 i u d) (hwf : d.aux.Wf cap)
    (hrx : y.snap &&& rxInts ≠ 0) :
    HandlerEnds i ((d.aux.appendN u.rxFifo).2 + 6) u y
      (Uart.leftFromI5 { u with rxFifo := u.rxFifo.drop (d.aux.appendN u.rxFifo).2 }
        { d with aux := (d.aux.appendN u.rxFifo).1, stats := d.stats.countedAt .i4 } y.snap
        (drainDis y.dis (d.aux.appendN u.rxFifo).1) true) :=
  .cons { u with driver := some { d with stats := d.stats.countedAt .i4 } } { y with ph := .i4l, fired := true } hy
    nofun (by rintro s hat rfl rfl; exact hat.does_i4.1 hrx)
    (handlerEnds_i4l (d := { d with stats := d.stats.countedAt .i4 }) ⟨rfl, hy.inst, rfl⟩ hwf rfl)

/-- R146 with no receive interrupt in the snapshot: there is no drain. -/
theorem handlerEnds_i4_skip (hy : Serving y .i4 i u d) (hrx : y.snap &&& rxInts = 0) :
    HandlerEnds i 5 u y (u.leftFromI5 d y.snap y.dis y.fired) :=
  .cons u { y with ph := .i5 } hy nofun (by rintro s hat rfl rfl; exact hat.does_i4.2 hrx)
    (handlerEnds_i5 ⟨rfl, hy.inst, hy.driver⟩)

theorem Uart.eq_of_driver (hd : u.driver = some d) : { u with driver := some d } = u := by
  rw [← hd]

/-- R145: what follows finds the overrun counted, if there is one. -/
theorem handlerEnds_i3 (hy : Serving y .i3 i u d)
    (hrest : HandlerEnds i n
      { u with driver := some { d with stats := d.stats.countedIf .i3 (anyBits y.snap maskOe) } }
      { y with ph := .i4, fired := anyBits y.snap maskOe || y.fired } u') : HandlerEnds i (n + 1) u y u' := by
  cases ht : anyBits y.snap maskOe with
  | true =>
    rw [ht] at hrest
    exact .cons _ _ hy nofun (by rintro s hat rfl rfl; exact hat.does_i3.1 ((anyBits_iff _ _).1 ht)) hrest
  | false =>
    rw [ht, Stats.countedIf, if_neg Bool.false_ne_true, Uart.eq_of_driver hy.driver] at hrest
    exact .cons u _ hy nofun (by rintro s hat rfl rfl; exact hat.does_i3.2 ((anyBits_eq_false_iff _ _).1 ht)) hrest

/-- R144: what follows finds the interrupt counted. -/
theorem handlerEnds_i2 (hy : Serving y .i2 i u d)
    (hrest : HandlerEnds i n { u with driver := some { d with stats := d.stats.countedAt .i2 } } { y with ph := .i3 }
      u') : HandlerEnds i (n + 1) u y u' :=
  .cons _ _ hy nofun (by rintro s hat rfl rfl; exact hat.does_i2) hrest

/-- The sequencer as entry leaves it (R143). -/
def enteredIsr (i : InstId) (snap : Mask) : Isr := { ph := .i2, inst := i, snap := snap, dis := 0, fired := false }

/-- The driver state that `I4` finds after an entry. -/
def Driver.countedToI4 (d : Driver) (snap : Mask) : Driver :=
  { d with stats := (d.stats.countedAt .i2).countedIf .i3 (anyBits snap maskOe) }

/-- The sequencer that `I4` finds after an entry. -/
def isrAtI4 (i : InstId) (snap : Mask) : Isr :=
  { ph := .i4, inst := i, snap := snap, dis := 0, fired := anyBits snap maskOe }

theorem handlerEnds_entered {snap : Mask} (hd : u.driver = some d)
    (hrest : HandlerEnds i n { u with driver := some (d.countedToI4 snap) } (isrAtI4 i snap) u') :
    HandlerEnds i (n + 2) u (enteredIsr i snap) u' := by
  rw [isrAtI4, ← Bool.or_false (anyBits snap maskOe)] at hrest
  exact handlerEnds_i2 ⟨rfl, rfl, hd⟩ (handlerEnds_i3 ⟨rfl, rfl, rfl⟩ hrest)

/-! ## The decision table (R156, R157) -/

theorem Stats.countedIf_i3 (c : Stats) (b : Bool) :
    c.countedIf .i3 b = { c with rxOverflows := c.rxOverflows + if b then 1 else 0 } := by
  cases b <;> simp [Stats.countedIf, Stats.countedAt, inc32]

theorem Stats.countedIf_i4 (c : Stats) (b : Bool) :
    c.countedIf .i4 b = { c with rxInts := c.rxInts + if b then 1 else 0 } := by
  cases b <;> simp [Stats.countedIf, Stats.countedAt, inc32]

theorem Stats.countedIf_i5 (c : Stats) (b : Bool) :
    c.countedIf .i5 b = { c with txInts := c.txInts + if b then 1 else 0 } := by
  cases b <;> simp [Stats.countedIf, Stats.countedAt, inc32]

/-- The transmit interrupt is marked exactly if it is in the snapshot. -/
theorem txDis_eq (snap dis : Mask) :
    (if anyBits snap maskTx then setBits dis txInts else dis) = dis ||| (snap &&& maskTx) := by
  revert snap dis; decide

/-- Something fires exactly if the snapshot is not empty (R149). -/
theorem fired_eq (snap : Mask) :
    (anyBits snap maskTx || (anyBits snap rxInts || anyBits snap maskOe)) = decide (snap ≠ 0) := by
  revert snap; decide

/-- The UART `u` as a whole invocation leaves it, when its drain left the receive FIFO `q` and the buffer `r` and marked
`dis`. -/
def Uart.leftByInvocation (u : Uart) (d : Driver) (snap dis : Mask) (q : List Byte) (r : Ring) : Uart :=
  Uart.leftFromI5 { u with rxFifo := q }
    { d.countedToI4 snap with
      aux := r
      stats := (d.countedToI4 snap).stats.countedIf .i4 (anyBits snap rxInts) }
    snap dis (anyBits snap rxInts || anyBits snap maskOe)

/-- The row of the table, field by field. -/
theorem Uart.leftByInvocation_eq (u : Uart) (d : Driver) (snap dis : Mask) (q : List Byte) (r : Ring) :
    u.leftByInvocation d snap dis q r =
      { u with
        rxFifo := q
        ris := u.ris &&& ~~~snap
        im := u.im &&& ~~~(dis ||| (snap &&& 0b0100))
        dispReq := if snap ≠ 0 then true else u.dispReq
        driver := some { d with
          aux := r
          stats := { d.stats with
            ints := d.stats.ints + 1
            rxOverflows := d.stats.rxOverflows + (if snap &&& 0b1000 ≠ 0 then 1 else 0)
            rxInts := d.stats.rxInts + (if snap &&& 0b0011 ≠ 0 then 1 else 0)
            txInts := d.stats.txInts + (if snap &&& 0b0100 ≠ 0 then 1 else 0) } } } := by
  rw [Uart.leftByInvocation, Uart.leftFromI5, Uart.leftBy, txDis_eq, fired_eq, Driver.countedToI4, Stats.countedIf_i3,
    Stats.countedIf_i4, Stats.countedIf_i5]
  simp only [anyBits_iff, decide_eq_true_eq]
  rfl

/-! ## The whole invocation (R153) -/

theorem Ring.Wf.appendN_avail_eq_zero_iff {cap : Nat} {b : Ring} (h : b.Wf cap) (q : List Byte) :
    (b.appendN q).1.avail = 0 ↔ (b.appendN q).2 = b.avail := by
  obtain ⟨hwf, hcount, hused, -⟩ := Ring.appendN_contents (bs := q) h
  have hbefore := h.used_add_avail
  have hafter := hwf.used_add_avail
  omega

/-- The bytes one invocation moves for a snapshot. -/
def movedBytes (u : Uart) (d : Driver) (snap : Mask) : Nat :=
  if snap &&& 0b0011 ≠ 0 then min u.rxFifo.length d.aux.avail else 0

/-- The words one invocation takes, its entry included. -/
def invocationWords (u : Uart) (d : Driver) (snap : Mask) : Nat :=
  if snap &&& 0b0011 ≠ 0 then 9 + movedBytes u d snap else 8

/-- What one invocation marks among the receive interrupts. -/
def invocationRxDis (u : Uart) (d : Driver) (snap : Mask) : Mask :=
  if snap &&& 0b0011 ≠ 0 ∧ movedBytes u d snap = d.aux.avail then 0b0011 else 0

theorem handlerEnds_entered_drain {cap : Nat} {snap : Mask} (hd : u.driver = some d) (hwf : d.aux.Wf cap)
    (hrx : snap &&& 0b0011 ≠ 0) : ∃ r : Ring, r.Wf cap ∧
      r.contents = d.aux.contents ++ u.rxFifo.take (movedBytes u d snap) ∧
      HandlerEnds i (movedBytes u d snap + 8) u (enteredIsr i snap)
        (u.leftByInvocation d snap (invocationRxDis u d snap) (u.rxFifo.drop (movedBytes u d snap)) r) := by
  obtain ⟨hwf', hcount, -, hcontents⟩ := Ring.appendN_contents (bs := u.rxFifo) hwf
  have hmoved : (d.aux.appendN u.rxFifo).2 = movedBytes u d snap := hcount.trans (if_pos hrx).symm
  have hfull : (d.aux.appendN u.rxFifo).1.avail = 0 ↔ snap &&& 0b0011 ≠ 0 ∧ movedBytes u d snap = d.aux.avail := by
    rw [hwf.appendN_avail_eq_zero_iff, hmoved, and_iff_right hrx]
  have hdis : drainDis 0 (d.aux.appendN u.rxFifo).1 = invocationRxDis u d snap := if_congr hfull rfl rfl
  have hends := handlerEnds_entered hd (handlerEnds_i4_drain (i := i) (y := isrAtI4 i snap)
    (u := { u with driver := some (d.countedToI4 snap) }) ⟨rfl, rfl, rfl⟩ hwf hrx)
  refine ⟨(d.aux.appendN u.rxFifo).1, hwf', ?contents, ?ends⟩
  case contents => rw [hcontents, List.take_eq_take_min, movedBytes, if_pos hrx, Nat.min_comm]
  case ends =>
    rw [Uart.leftByInvocation, ← hmoved, ← hdis, (anyBits_iff snap rxInts).2 hrx]
    exact hends

theorem handlerEnds_entered_skip {snap : Mask} (hd : u.driver = some d) (hrx : snap &&& 0b0011 = 0) :
    HandlerEnds i 7 u (enteredIsr i snap) (u.leftByInvocation d snap 0 u.rxFifo d.aux) := by
  have hends := handlerEnds_entered hd (handlerEnds_i4_skip (i := i) (y := isrAtI4 i snap)
    (u := { u with driver := some (d.countedToI4 snap) }) ⟨rfl, rfl, rfl⟩ hrx)
  rw [Uart.leftByInvocation, (anyBits_eq_false_iff snap rxInts).2 hrx, Bool.false_or]
  exact hends

/-- The whole handler, with or without a drain. -/
theorem handlerEnds_invocation {cap : Nat} (snap : Mask) (hd : u.driver = some d) (hwf : d.aux.Wf cap) :
    ∃ r : Ring, r.Wf cap ∧ r.contents = d.aux.contents ++ u.rxFifo.take (movedBytes u d snap) ∧
      HandlerEnds i (invocationWords u d snap - 1) u (enteredIsr i snap)
        (u.leftByInvocation d snap (invocationRxDis u d snap) (u.rxFifo.drop (movedBytes u d snap)) r) := by
  by_cases hrx : snap &&& 0b0011 = 0
  · have hmoved : movedBytes u d snap = 0 := if_neg (not_not.2 hrx)
    have hwords : invocationWords u d snap - 1 = 7 := congrArg (· - 1) (if_neg (not_not.2 hrx))
    have hdis : invocationRxDis u d snap = 0 := if_neg fun h => h.1 hrx
    refine ⟨d.aux, hwf, ?_, ?_⟩
    · rw [hmoved, List.take_zero, List.append_nil]
    · rw [hmoved, hwords, hdis]
      exact handlerEnds_entered_skip hd hrx
  · have hwords : invocationWords u d snap - 1 = movedBytes u d snap + 8 := by
      rw [invocationWords, if_pos hrx]; omega
    rw [hwords]
    exact handlerEnds_entered_drain hd hwf hrx

theorem invocationWords_le {cap : Nat} (u : Uart) (snap : Mask) (hwf : d.aux.Wf cap) :
    invocationWords u d snap ≤ 9 + cap := by
  have hspace := hwf.used_add_avail
  unfold invocationWords movedBytes
  split <;> omega

/-- `IRQ` enters whatever the status, and `ISTEP` for a pending enabled source (R141, R142). -/
theorem does_enter (hr : TaskReady s i) (hd : (s.uart i).driver = some d)
    (hx : x = .irq i ∨ (x = .istep i ∧ (s.uart i).ris &&& (s.uart i).im ≠ 0)) :
    Does x s i (s.uart i) (enteredIsr i ((s.uart i).ris &&& (s.uart i).im)) s.pass none := by
  have hbound : (s.uart i).driver ≠ none := by rw [hd]; nofun
  obtain rfl | ⟨rfl, hline⟩ := hx
  · exact does_of_exec_enterHandler (exec_irq_of_idle hr) hbound
  · exact does_of_exec_enterHandler (exec_istep_of_requesting hr (requesting_iff.2 hline)) hbound

/-- Settles O31: the entry, then the handler phase by phase to its return, and the table row that this leaves. -/
theorem handlerInvocationFollowsTable : Obligations.HandlerInvocationFollowsTable := by
  intro i x s d hs hph hn hd hx snap m n full dis
  have hwf : d.aux.Wf s.params.auxCap := ((hs.uarts i).driver d hd).aux
  obtain ⟨v, hexec, -, hu, hisr, hpass, hframe⟩ := does_enter ⟨hph, hn⟩ hd hx
  obtain ⟨r, hr, hcontents, hends⟩ := handlerEnds_invocation (i := i) snap hd hwf
  obtain ⟨t, hreturns, ht⟩ := hends v (by rwa [hframe.params]) hu hisr
  rw [Uart.leftByInvocation_eq] at ht
  exact ⟨invocationWords_le _ _ hwf, v, hexec, hreturns.inFlight, t, r, hreturns.run, hreturns.idle,
    hreturns.pass.trans hpass, hreturns.reply, hframe.trans hreturns.frame, hr, hcontents, ht⟩

end Sys2Proof.Machine
end

section
/-! PROOFS. The dispatch pass, word by word (43_dispatch.md). `PassAt` says which micro-operation the next `PSTEP` runs;
each micro-operation has a lemma per outcome that gives its whole effect (`Does`). -/

namespace Sys2Proof.Machine

variable {s : State} {x : Instr} {i : InstId} {u : Uart} {z : Pass} {d : Driver} {ph : PassPh} {cap : Nat} {b : Ring}

/-! ## Writing the dispatch sequencer -/

theorem does_of_exec_setPass (h : exec x s = (s.setPass z).ok) : Does x s i (s.uart i) s.isr z none :=
  ⟨_, h, rfl, rfl, rfl, rfl, fun _ _ => rfl, rfl, rfl, rfl, rfl⟩

theorem does_of_exec_setUart_setPass (h : exec x s = ((s.setUart i u).setPass z).ok) :
    Does x s i u s.isr z none :=
  ⟨_, h, rfl, State.uart_setUart_self s i u, rfl, rfl, fun _ hj => State.uart_setUart_ne s u hj, rfl, rfl, rfl, rfl⟩

theorem does_of_exec_setUart_freeLock (h : exec x s = ((s.setUart i u).freeLock).ok) :
    Does x s i u s.isr (idlePass s.draws) none :=
  ⟨_, h, rfl, State.uart_setUart_self s i u, rfl, rfl, fun _ hj => State.uart_setUart_ne s u hj, rfl, rfl, rfl, rfl⟩

/-! ## DISPATCH (R160) -/

theorem BehindTaskChecks.boundChecks {k : Driver → Result}
    (h : BehindTaskChecks x s (s.onBound x.inst k)) : BoundChecks x s :=
  ⟨h.taskChecks, fun hr hd => (h.exec_eq hr).trans (State.onBound_none hd)⟩

theorem dispatch_behindTaskChecks (i : InstId) (s : State) : BehindTaskChecks (.dispatch i) s
    (s.onBound i fun _ => (s.setUart i { s.uart i with dispReq := true }).ok) := rfl

/-- Settles O32: past the checks the request is set, whatever the lock. -/
theorem dispatchRequestsAPass : Obligations.DispatchRequestsAPass := by
  intro i s
  refine ⟨rfl, BehindTaskChecks.boundChecks (x := .dispatch i) (dispatch_behindTaskChecks i s), fun hr hd => ?_⟩
  obtain ⟨d, hd⟩ := Option.ne_none_iff_exists'.1 hd
  have hexec := BehindTaskChecks.exec_eq (dispatch_behindTaskChecks i s) hr
  exact does_of_exec_setUart (hexec.trans (State.onBound_some hd))

/-! ## PSTEP with no pass of its own in flight (R161, R162) -/

theorem exec_pstep (h : TaskReady s i) :
    exec (.pstep i) s =
      if s.pass.ph = .idle then if (s.uart i).dispReq then passD0 i s else s.hold
      else if s.pass.inst ≠ i then s.hold else passStep s.pass.ph i s :=
  BehindTaskChecks.exec_eq (x := .pstep i) rfl h

theorem exec_pstep_of_request (h : TaskReady s i) (hph : s.pass.ph = .idle) (hreq : (s.uart i).dispReq = true) :
    exec (.pstep i) s = passD0 i s := by
  rw [exec_pstep h, if_pos hph, if_pos hreq]

theorem holds_pstep_of_other (h : TaskReady s i) (hph : s.pass.ph ≠ .idle) (hi : s.pass.inst ≠ i) :
    Holds (.pstep i) s := by
  rw [Holds, exec_pstep h, if_neg hph, if_pos hi]
  rfl

theorem holds_pstep_of_no_request (h : TaskReady s i) (hph : s.pass.ph = .idle)
    (hreq : (s.uart i).dispReq = false) : Holds (.pstep i) s := by
  rw [Holds, exec_pstep h, if_pos hph, if_neg (ne_true_of_eq_false hreq)]
  rfl

theorem passD0_of_unbound (hd : (s.uart i).driver = none) :
    passD0 i s = (s.setUart i { s.uart i with dispReq := false }).ok := by
  simp only [passD0, hd]

theorem passD0_of_bound (hd : (s.uart i).driver = some d) :
    passD0 i s = ((s.setUart i { s.uart i with dispReq := false }).takeLock i d).ok := by
  simp only [passD0, hd]

/-- The sequencer as `D0` leaves it: the lock is taken and the whole budget is left (R162, R168). -/
def startedPass (p : Params) (i : InstId) (d : Driver) : Pass :=
  { ph := .r1, inst := i, recd := false, lingerLeft := d.cfg.lingerUs.toNat * p.itersPerUs }

theorem does_d0 (h : TaskReady s i) (hph : s.pass.ph = .idle) (hreq : (s.uart i).dispReq = true)
    (hd : (s.uart i).driver = some d) :
    Does (.pstep i) s i { s.uart i with dispReq := false } s.isr (startedPass s.params i d) none :=
  does_of_exec_setUart_setPass ((exec_pstep_of_request h hph hreq).trans (passD0_of_bound hd))

/-- Settles O33: past the checks the lock, then the request, then the driver state decide. -/
theorem pstepStartsAPass : Obligations.PstepStartsAPass := by
  intro i s
  refine ⟨rfl, BehindTaskChecks.taskChecks (x := .pstep i) rfl, fun hr =>
    ⟨holds_pstep_of_other hr, holds_pstep_of_no_request hr, fun hph hreq hd => ?unbound, fun d => does_d0 hr⟩⟩
  case unbound => exact does_of_exec_setUart ((exec_pstep_of_request hr hph hreq).trans (passD0_of_unbound hd))

/-! ## The micro-operation of the phase (R161) -/

theorem PassAt.driver (h : PassAt s ph i d) : (s.uart i).driver = some d := by
  obtain ⟨-, -, -, -, hd⟩ := h
  exact hd

theorem PassAt.phase (h : PassAt s ph i d) : s.pass.ph = ph := by
  obtain ⟨-, hph, -⟩ := h
  exact hph

theorem PassAt.exec_pstep (h : PassAt s ph i d) (hph : ph ≠ .idle) : exec (.pstep i) s = passStep ph i s := by
  obtain ⟨hisr, rfl, hi, hn, -⟩ := h
  rw [Machine.exec_pstep ⟨hisr, hn⟩, if_neg hph, if_neg (not_not.2 hi)]

/-! ## R1 (R163) -/

theorem PassAt.exec_r1 (h : PassAt s .r1 i d) :
    exec (.pstep i) s =
      if 0 < d.aux.used then
        ((s.setUart i { s.uart i with im := clearBits (s.uart i).im rxInts }).setPass { s.pass with ph := .r1l }).ok
      else (s.setPass { s.pass with ph := .r2 }).ok :=
  (h.exec_pstep nofun).trans (State.needDriver_some h.driver)

theorem PassAt.does_r1_mask (h : PassAt s .r1 i d) (hheld : 0 < d.aux.used) :
    Does (.pstep i) s i { s.uart i with im := clearBits (s.uart i).im rxInts } s.isr { s.pass with ph := .r1l } none :=
  does_of_exec_setUart_setPass (h.exec_r1.trans (if_pos hheld))

theorem PassAt.does_r1_skip (h : PassAt s .r1 i d) (hempty : d.aux.used = 0) :
    Does (.pstep i) s i (s.uart i) s.isr { s.pass with ph := .r2 } none :=
  does_of_exec_setPass (h.exec_r1.trans (if_neg (Nat.not_lt.2 hempty.le)))

/-- Settles O34: the two branches of `R1`. -/
theorem passMasksOnlyIfAuxHoldsBytes : Obligations.PassMasksOnlyIfAuxHoldsBytes :=
  fun _ _ _ h => ⟨h.does_r1_mask, h.does_r1_skip⟩

/-! ## R1L (R164) -/

theorem PassAt.exec_r1l (h : PassAt s .r1l i d) :
    exec (.pstep i) s =
      if min d.rxb.avail d.aux.used = 0 then (s.setPass { s.pass with ph := .r2 }).ok
      else if anyBits (s.uart i).im rxInts then s.raise .auxRace
      else ((s.setDriver i (d.moveAux (min d.rxb.avail d.aux.used))).setPass { s.pass with recd := true }).ok :=
  (h.exec_pstep nofun).trans (State.needDriver_some h.driver)

theorem PassAt.does_r1l_done (h : PassAt s .r1l i d) (hend : d.rxb.avail = 0 ∨ d.aux.used = 0) :
    Does (.pstep i) s i (s.uart i) s.isr { s.pass with ph := .r2 } none :=
  does_of_exec_setPass (h.exec_r1l.trans (if_pos (Nat.min_eq_zero_iff.2 hend)))

theorem PassAt.faults_r1l (h : PassAt s .r1l i d) (hroom : 0 < d.rxb.avail) (hheld : 0 < d.aux.used)
    (him : (s.uart i).im &&& rxInts ≠ 0) : Faults (.pstep i) s .auxRace := by
  rw [Faults, h.exec_r1l, if_neg (Nat.lt_min.2 ⟨hroom, hheld⟩).ne', if_pos ((anyBits_iff _ _).2 him)]
  rfl

theorem PassAt.does_r1l_move (h : PassAt s .r1l i d) (hroom : 0 < d.rxb.avail) (hheld : 0 < d.aux.used)
    (him : (s.uart i).im &&& rxInts = 0) :
    Does (.pstep i) s i { s.uart i with driver := some (d.moveAux (min d.rxb.avail d.aux.used)) } s.isr
      { s.pass with recd := true } none := by
  have hmasked := (anyBits_iff _ _).not.2 (not_not.2 him)
  exact does_of_exec_setUart_setPass
    (h.exec_r1l.trans ((if_neg (Nat.lt_min.2 ⟨hroom, hheld⟩).ne').trans (if_neg hmasked)))

theorem Ring.appendN_head (vs : List Byte) (b : Ring) : (b.appendN vs).1.head = b.head := by
  induction vs generalizing b with
  | nil => rfl
  | cons v vs ih =>
    rw [Ring.appendN]
    split
    · rfl
    · exact (ih _).trans (Ring.append_head b v)

/-- A move of `R1L` for which `RXB` has room puts the whole view at the tail of `RXB`. -/
theorem Driver.moveAux_rxb {n a : Nat} (haux : d.aux.Wf a) (hrxb : d.rxb.Wf cap) (hn : n ≤ d.rxb.avail) :
    (d.moveAux n).rxb.Wf cap ∧ (d.moveAux n).rxb.used = d.rxb.used + (d.aux.getView n).2 ∧
      (d.moveAux n).rxb.contents = d.rxb.contents ++ d.aux.contents.take (d.aux.getView n).2 := by
  have hview : (d.aux.viewBytes n).length ≤ d.rxb.avail := by
    rw [Ring.viewBytes_length]
    exact (Ring.getView_count_le_max _ _).trans hn
  obtain ⟨hwf, -, hused, hcontents⟩ := Ring.appendN_contents (bs := d.aux.viewBytes n) hrxb
  rw [Nat.min_eq_left hview, Ring.viewBytes_length] at hused
  rw [List.take_of_length_le hview] at hcontents
  exact ⟨hwf, hused, hcontents.trans (by rw [Ring.viewBytes_eq_take haux])⟩

/-- Settles O35: the loop is over, or finds the receive interrupts unmasked, or moves one run. -/
theorem passMovesAuxToMainBuffer : Obligations.PassMovesAuxToMainBuffer := by
  intro i s d h haux hrxb
  refine ⟨h.does_r1l_done, fun hroom hheld => ⟨h.faults_r1l hroom hheld, fun him => ?move⟩⟩
  case move =>
    have hn : 0 < min d.rxb.avail d.aux.used := Nat.lt_min.2 ⟨hroom, hheld⟩
    obtain ⟨hwf, hused, hcontents⟩ := Driver.moveAux_rxb haux hrxb (Nat.min_le_left d.rxb.avail d.aux.used)
    obtain ⟨hleft, hleftUsed⟩ := Ring.consume_contents haux (Ring.getView_count_le_used _ _)
    have hcount : (d.aux.getView (min d.rxb.avail d.aux.used)).2 =
        min (min d.rxb.avail d.aux.used) (s.params.auxCap - d.aux.head) := by
      rw [haux.getView_eq]
      simp only [Nat.min_assoc, Nat.min_self_assoc]
    exact ⟨_, _, _, hcount, (Ring.getView_count_pos haux).2 ⟨hn, hheld⟩, Ring.consume_wf haux, hleft, hleftUsed,
      haux.consume_head _, hwf, hcontents, hused, Ring.appendN_head _ _, h.does_r1l_move hroom hheld him⟩

/-! ## R2 (R165) -/

theorem PassAt.does_r2_move {v : Byte} {q : List Byte} (h : PassAt s .r2 i d) (hq : (s.uart i).rxFifo = v :: q)
    (hroom : 0 < d.rxb.avail) :
    Does (.pstep i) s i
      { s.uart i with
        rxFifo := q
        driver := some { d with
          rxb := (d.rxb.append v).1
          stats := { d.stats with rxBytes := inc32 d.stats.rxBytes } } }
      s.isr { s.pass with recd := true } none := by
  have hexec := (h.exec_pstep nofun).trans (State.needDriver_some h.driver)
  simp only [hq, if_pos hroom] at hexec
  exact does_of_exec_setUart_setPass hexec

theorem PassAt.does_r2_done (h : PassAt s .r2 i d) (hend : d.rxb.avail = 0 ∨ (s.uart i).rxFifo = []) :
    Does (.pstep i) s i (s.uart i) s.isr { s.pass with ph := .r3 } none := by
  have hexec := (h.exec_pstep nofun).trans (State.needDriver_some h.driver)
  refine does_of_exec_setPass (hexec.trans ?_)
  cases hq : (s.uart i).rxFifo with
  | nil => rfl
  | cons v q =>
    have hfull : d.rxb.avail = 0 := hend.resolve_right (by rw [hq]; nofun)
    exact if_neg (Nat.not_lt.2 hfull.le)

theorem Ring.Wf.used_lt_of_avail (h : b.Wf cap) (hroom : 0 < b.avail) : b.used < cap := by
  have hspace := h.used_add_avail
  omega

/-- Appending to a buffer with room, whole. -/
theorem Ring.Wf.append_of_avail (h : b.Wf cap) (hroom : 0 < b.avail) (v : Byte) :
    (b.append v).1.Wf cap ∧ (b.append v).1.used = b.used + 1 ∧ (b.append v).1.contents = b.contents ++ [v] := by
  obtain ⟨hfull, -⟩ | ⟨-, -, hwf, hused, hcontents⟩ := Ring.append_cases h v
  · exact absurd hfull (h.used_lt_of_avail hroom).ne
  · exact ⟨hwf, hused, hcontents⟩

/-- Settles O36: with a byte and room the byte moves; otherwise the drain is over. -/
theorem passDrainsFifoIntoMainBuffer : Obligations.PassDrainsFifoIntoMainBuffer := by
  intro i s d h hrxb
  refine ⟨fun v q hq hroom => ?move, h.does_r2_done⟩
  case move =>
    obtain ⟨hwf, hused, hcontents⟩ := hrxb.append_of_avail hroom v
    exact ⟨_, hwf, Ring.append_head _ v, hused, hcontents, h.does_r2_move hq hroom⟩

/-! ## R3 (R170) -/

theorem State.lingers_iff : s.lingers d = true ↔
    s.pass.recd = true ∧ 0 < d.rxb.avail ∧ d.cfg.lingerUs ≠ 0 ∧ 0 < s.pass.lingerLeft := by
  simp only [State.lingers, Bool.and_eq_true, decide_eq_true_iff, and_assoc]

theorem State.not_lingers_iff : ¬ s.lingers d = true ↔
    s.pass.recd = false ∨ d.rxb.avail = 0 ∨ d.cfg.lingerUs = 0 ∨ s.pass.lingerLeft = 0 := by
  simp only [State.lingers_iff, not_and_or, Bool.not_eq_true, Nat.not_lt, Nat.le_zero, not_not, ne_eq]

theorem PassAt.exec_r3 (h : PassAt s .r3 i d) :
    exec (.pstep i) s =
      if s.lingers d then
        if 0 < (s.uart i).rxFifo.length then
          ((s.setDriver i { d with stats := { d.stats with rxLingerConts := inc32 d.stats.rxLingerConts } }).setPass
            { s.pass with ph := .r2, lingerLeft := s.pass.lingerLeft - 1 }).ok
        else (s.setPass { s.pass with lingerLeft := s.pass.lingerLeft - 1 }).ok
      else (s.setPass { s.pass with ph := .r4 }).ok :=
  (h.exec_pstep nofun).trans (State.needDriver_some h.driver)

theorem PassAt.does_r3_hit (h : PassAt s .r3 i d) (hl : s.lingers d = true) (hq : (s.uart i).rxFifo ≠ []) :
    Does (.pstep i) s i
      { s.uart i with
        driver := some { d with stats := { d.stats with rxLingerConts := inc32 d.stats.rxLingerConts } } }
      s.isr { s.pass with ph := .r2, lingerLeft := s.pass.lingerLeft - 1 } none :=
  does_of_exec_setUart_setPass (h.exec_r3.trans ((if_pos hl).trans (if_pos (List.length_pos_iff.2 hq))))

theorem PassAt.does_r3_miss (h : PassAt s .r3 i d) (hl : s.lingers d = true) (hq : (s.uart i).rxFifo = []) :
    Does (.pstep i) s i (s.uart i) s.isr { s.pass with lingerLeft := s.pass.lingerLeft - 1 } none :=
  does_of_exec_setPass (h.exec_r3.trans ((if_pos hl).trans (if_neg (by rw [hq]; exact Nat.lt_irrefl 0))))

theorem PassAt.does_r3_done (h : PassAt s .r3 i d) (hl : ¬ s.lingers d = true) :
    Does (.pstep i) s i (s.uart i) s.isr { s.pass with ph := .r4 } none :=
  does_of_exec_setPass (h.exec_r3.trans (if_neg hl))

/-- Settles O37: a poll, with or without a byte, or the end of the linger. -/
theorem passLingersWithinBudget : Obligations.PassLingersWithinBudget := by
  intro i s d h
  refine ⟨fun hrecd hroom hcfg hleft => ?polls, fun hend => h.does_r3_done (State.not_lingers_iff.2 hend)⟩
  case polls =>
    have hl := State.lingers_iff.2 ⟨hrecd, hroom, hcfg, hleft⟩
    exact ⟨h.does_r3_miss hl, h.does_r3_hit hl⟩

/-! ## R4 and T2 (R171, R173) -/

theorem PassAt.does_r4 (h : PassAt s .r4 i d) :
    Does (.pstep i) s i { s.uart i with ris := clearBits (s.uart i).ris rxInts } s.isr { s.pass with ph := .t1 } none :=
  does_of_exec_setUart_setPass (h.exec_pstep nofun)

theorem PassAt.does_t2 (h : PassAt s .t2 i d) :
    Does (.pstep i) s i { s.uart i with ris := clearBits (s.uart i).ris txInts } s.isr { s.pass with ph := .b1 } none :=
  does_of_exec_setUart_setPass (h.exec_pstep nofun)

/-- Settles O38: each of the two clears its bits and goes on. -/
theorem passClearsHandledStatus : Obligations.PassClearsHandledStatus :=
  fun _ _ _ => ⟨PassAt.does_r4, PassAt.does_t2⟩

/-! ## T1 (R172) -/

/-- The oldest byte of a buffer is what a view of one byte shows, and consuming it leaves the others. -/
theorem Ring.Wf.viewBytes_one_of_contents {v : Byte} {rest : List Byte} (h : b.Wf cap)
    (hc : b.contents = v :: rest) : b.viewBytes 1 = [v] ∧ (b.consume 1).contents = rest := by
  have hview : b.viewBytes 1 = [v] := by rw [Ring.viewBytes_one h, hc]; rfl
  exact ⟨hview, (List.cons.inj ((h.contents_of_viewBytes_one hview).symm.trans hc)).2⟩

theorem Ring.used_pos_of_contents {v : Byte} {rest : List Byte} (hc : b.contents = v :: rest) : 0 < b.used := by
  rw [← Ring.contents_length, hc]
  exact Nat.succ_pos _

theorem PassAt.does_t1_move {v : Byte} {rest : List Byte} (h : PassAt s .t1 i d) (hwf : d.txb.Wf cap)
    (hc : d.txb.contents = v :: rest) (hspace : (s.uart i).txFifo.length < s.params.hwTxDepth) :
    Does (.pstep i) s i
      { s.uart i with
        txFifo := (s.uart i).txFifo ++ [v]
        driver := some { d with
          txb := d.txb.consume 1
          stats := { d.stats with txBytes := inc32 d.stats.txBytes } } }
      s.isr s.pass none := by
  have hexec := (h.exec_pstep nofun).trans (State.needDriver_some h.driver)
  obtain ⟨hview, -⟩ := hwf.viewBytes_one_of_contents hc
  simp only [if_pos (And.intro (Ring.used_pos_of_contents hc) hspace), hview] at hexec
  exact does_of_exec_setUart hexec

theorem PassAt.does_t1_done (h : PassAt s .t1 i d)
    (hend : d.txb.used = 0 ∨ s.params.hwTxDepth ≤ (s.uart i).txFifo.length) :
    Does (.pstep i) s i (s.uart i) s.isr { s.pass with ph := .t2 } none := by
  have hexec := (h.exec_pstep nofun).trans (State.needDriver_some h.driver)
  have hstop : ¬ (0 < d.txb.used ∧ (s.uart i).txFifo.length < s.params.hwTxDepth) := by omega
  exact does_of_exec_setPass (hexec.trans (if_neg hstop))

/-- Settles O39: with a byte and space the byte moves; otherwise the dispatcher is done. -/
theorem passSendsOneByte : Obligations.PassSendsOneByte := by
  intro i s d h hwf
  refine ⟨fun v rest hc hspace => ?move, h.does_t1_done⟩
  case move =>
    obtain ⟨-, hrest⟩ := hwf.viewBytes_one_of_contents hc
    exact ⟨_, Ring.consume_wf hwf, hwf.consume_head 1, rfl, hrest, h.does_t1_move hwf hc hspace⟩

/-! ## B1 (R174) -/

theorem PassAt.does_b1 (h : PassAt s .b1 i d) :
    Does (.pstep i) s i
      { s.uart i with
        im := setBits (s.uart i).im (rearmMask d.rxEnabled (0 < d.aux.avail) (0 < d.txb.used)) }
      s.isr (idlePass s.draws) none :=
  does_of_exec_setUart_freeLock ((h.exec_pstep nofun).trans (State.needDriver_some h.driver))

theorem setBits_rearmMask (im : Mask) (rxe : Bool) (p q : Prop) [Decidable p] [Decidable q] :
    setBits im (rearmMask rxe p q) =
      im ||| 0b1000 ||| (if rxe = true ∧ p then 0b0011 else 0) ||| (if q then 0b0100 else 0) := by
  simp only [setBits, rearmMask, Bool.and_eq_true, decide_eq_true_eq, ← BitVec.or_assoc]
  rfl

/-- Settles O40: the masks are ORed in, and the lock is free. -/
theorem bottomHalfRearms : Obligations.BottomHalfRearms := by
  intro i s d h
  refine ⟨idlePass s.draws, rfl, ?_⟩
  rw [← setBits_rearmMask]
  exact h.does_b1

end Sys2Proof.Machine
end

section
/-! PROOFS. The received bytes that are counted (43_dispatch.md R178): of the operations that leave a UART bound, `R1L`
and `R2` alone add to `RXB`, and each counts what it adds. -/

namespace Sys2Proof.Machine

variable {s t : State} {x : Instr} {j : InstId} {u : Uart} {d e : Driver}

/-- `RXB` gained some bytes from `d` to `e`, and `rx_bytes` grew by their number. -/
def RxCounted (d e : Driver) : Prop :=
  ∃ k, e.rxb.used = d.rxb.used + k ∧ e.stats.rxBytes = d.stats.rxBytes + BitVec.ofNat 32 k

theorem RxCounted.of_eq (hused : e.rxb.used = d.rxb.used) (hcount : e.stats.rxBytes = d.stats.rxBytes) :
    RxCounted d e :=
  ⟨0, hused, hcount.trans (BitVec.add_zero _).symm⟩

theorem RxCounted.gained (h : RxCounted d e) : d.rxb.used ≤ e.rxb.used ∧
    e.stats.rxBytes = d.stats.rxBytes + BitVec.ofNat 32 (e.rxb.used - d.rxb.used) := by
  obtain ⟨k, hused, hcount⟩ := h
  rw [hused, Nat.add_sub_cancel_left]
  exact ⟨Nat.le_add_right _ _, hcount⟩

theorem UartStep.rxCounted {p : Params} {fc : Bool} (h : UartStep s x u) (hwf : d.Wf p fc)
    (hget : x ≠ .rxget x.inst) (hd : (s.uart x.inst).driver = some d) (he : u.driver = some e) :
    RxCounted d e := by
  cases h with
  | rxget => exact absurd rfl hget
  | init hn => exact absurd (hn.symm.trans hd) nofun
  | deinit => cases he
  | r1l hd' =>
    obtain rfl := Option.some.inj (hd'.symm.trans hd)
    obtain rfl := Option.some.inj he
    obtain ⟨-, hused, -⟩ := Driver.moveAux_rxb hwf.aux hwf.rxb (Nat.min_le_left _ _)
    exact ⟨_, hused, rfl⟩
  | r2 hd' _ hroom =>
    obtain rfl := Option.some.inj (hd'.symm.trans hd)
    obtain rfl := Option.some.inj he
    obtain ⟨-, hused, -⟩ := hwf.rxb.append_of_avail hroom _
    exact ⟨1, hused, rfl⟩
  | count hd' hc =>
    obtain rfl := Option.some.inj (hd'.symm.trans hd)
    obtain rfl := Option.some.inj he
    subst hc
    exact .of_eq rfl (Stats.countedAt_taskSide _ _).1
  | txput hd' | setrxen hd' | i4l hd' | r3 hd' | t1 hd' =>
    obtain rfl := Option.some.inj (hd'.symm.trans hd)
    obtain rfl := Option.some.inj he
    exact .of_eq rfl rfl
  | _ =>
    obtain rfl := Option.some.inj (hd.symm.trans he)
    exact .of_eq rfl rfl

/-- Settles O56: a word changes no UART but its own, and its own as `UartStep` lists. -/
theorem rxBytesCountsBytesIntoMainBuffer : Obligations.RxBytesCountsBytesIntoMainBuffer := by
  intro x s t j d e hs h hget hd he
  refine RxCounted.gained ?_
  by_cases hj : j = x.inst
  · subst hj
    exact (exec_writes h).uart.rxCounted ((hs.uarts _).driver d hd) hget hd he
  · rw [(exec_writes h).others j hj] at he
    obtain rfl := Option.some.inj (hd.symm.trans he)
    exact .of_eq rfl rfl

end Sys2Proof.Machine
end

section
/-! PROOFS. The measure of a pass (43_dispatch.md R176). `PassMove` lists once what the micro-operations of a pass do to
its UART and its sequencer; each of its rows lowers the measure. No other word reaches the buffers the measure reads. -/

namespace Sys2Proof.Machine

variable {s t : State} {x : Instr} {i : InstId} {u u' : Uart} {y z : Pass} {d e : Driver} {ph : PassPh} {n : Nat}

/-! ## What a micro-operation of a pass does -/

/-- What an ok `PSTEP` of the pass `y` makes of its UART `u`, bound with driver state `d`: the UART, its driver state and
the sequencer after it. The transmit FIFO holds at most `n` bytes. -/
inductive PassMove (n : Nat) (u : Uart) (d : Driver) (y : Pass) : Uart → Driver → Pass → Prop where
  | r1_mask (hph : y.ph = .r1) :
      PassMove n u d y { u with im := clearBits u.im rxInts } d { y with ph := .r1l }
  | r1_skip (hph : y.ph = .r1) : PassMove n u d y u d { y with ph := .r2 }
  | r1l_move (hph : y.ph = .r1l) (hroom : 0 < d.rxb.avail) (hheld : 0 < d.aux.used) :
      PassMove n u d y { u with driver := some (d.moveAux (min d.rxb.avail d.aux.used)) }
        (d.moveAux (min d.rxb.avail d.aux.used)) { y with recd := true }
  | r1l_done (hph : y.ph = .r1l) : PassMove n u d y u d { y with ph := .r2 }
  | r2_move {v q} (hph : y.ph = .r2) (hroom : 0 < d.rxb.avail) :
      PassMove n u d y
        { u with
          rxFifo := q
          driver := some { d with
            rxb := (d.rxb.append v).1
            stats := { d.stats with rxBytes := inc32 d.stats.rxBytes } } }
        { d with
          rxb := (d.rxb.append v).1
          stats := { d.stats with rxBytes := inc32 d.stats.rxBytes } }
        { y with recd := true }
  | r2_done (hph : y.ph = .r2) : PassMove n u d y u d { y with ph := .r3 }
  | r3_hit (hph : y.ph = .r3) (hleft : 0 < y.lingerLeft) :
      PassMove n u d y
        { u with driver := some { d with stats := { d.stats with rxLingerConts := inc32 d.stats.rxLingerConts } } }
        { d with stats := { d.stats with rxLingerConts := inc32 d.stats.rxLingerConts } }
        { y with ph := .r2, lingerLeft := y.lingerLeft - 1 }
  | r3_miss (hph : y.ph = .r3) (hleft : 0 < y.lingerLeft) :
      PassMove n u d y u d { y with lingerLeft := y.lingerLeft - 1 }
  | r3_done (hph : y.ph = .r3) : PassMove n u d y u d { y with ph := .r4 }
  | r4 (hph : y.ph = .r4) : PassMove n u d y { u with ris := clearBits u.ris rxInts } d { y with ph := .t1 }
  | t1_move {v rest} (hph : y.ph = .t1) (hc : d.txb.contents = v :: rest) (hspace : u.txFifo.length < n) :
      PassMove n u d y
        { u with
          txFifo := u.txFifo ++ [v]
          driver := some { d with
            txb := d.txb.consume 1
            stats := { d.stats with txBytes := inc32 d.stats.txBytes } } }
        { d with
          txb := d.txb.consume 1
          stats := { d.stats with txBytes := inc32 d.stats.txBytes } }
        y
  | t1_done (hph : y.ph = .t1) (hend : d.txb.used = 0 ∨ n ≤ u.txFifo.length) :
      PassMove n u d y u d { y with ph := .t2 }
  | t2 (hph : y.ph = .t2) : PassMove n u d y { u with ris := clearBits u.ris txInts } d { y with ph := .b1 }
  | b1 {m k} (hph : y.ph = .b1) : PassMove n u d y { u with im := setBits u.im m } d (idlePass k)

theorem PassMove.driver (h : PassMove n u d y u' e z) (hd : u.driver = some d) : u'.driver = some e := by
  cases h with
  | r1l_move | r2_move | r3_hit | t1_move => rfl
  | _ => exact hd

/-- A pass stays on its UART until it ends. -/
theorem PassMove.inst (h : PassMove n u d y u' e z) (hz : z.ph ≠ .idle) : z.inst = y.inst := by
  cases h with
  | b1 => exact absurd rfl hz
  | _ => rfl

/-- The next `PSTEP` of the pass on `i` at `s` is ok, and is one of the rows. -/
def Moves (s : State) (i : InstId) (d : Driver) : Prop :=
  ∃ u e z, PassMove s.params.hwTxDepth (s.uart i) d s.pass u e z ∧ Does (.pstep i) s i u s.isr z none

/-- What stops a move of `R1L`: a receive interrupt is unmasked (R164). -/
def RaceDue (s : State) (i : InstId) : Prop := s.pass.ph = .r1l ∧ (s.uart i).im &&& rxInts ≠ 0

theorem moves_r1 (h : PassAt s .r1 i d) : Moves s i d := by
  have hph := h.phase
  obtain hempty | hheld := Nat.eq_zero_or_pos d.aux.used
  · exact ⟨_, _, _, .r1_skip hph, h.does_r1_skip hempty⟩
  · exact ⟨_, _, _, .r1_mask hph, h.does_r1_mask hheld⟩

theorem moves_r1l (h : PassAt s .r1l i d) :
    Moves s i d ∨ (RaceDue s i ∧ Faults (.pstep i) s .auxRace) := by
  have hph := h.phase
  by_cases hend : d.rxb.avail = 0 ∨ d.aux.used = 0
  · exact .inl ⟨_, _, _, .r1l_done hph, h.does_r1l_done hend⟩
  obtain ⟨hroom, hheld⟩ := not_or.1 hend
  have hroom := Nat.pos_of_ne_zero hroom
  have hheld := Nat.pos_of_ne_zero hheld
  by_cases him : (s.uart i).im &&& rxInts = 0
  · exact .inl ⟨_, _, _, .r1l_move hph hroom hheld, h.does_r1l_move hroom hheld him⟩
  · exact .inr ⟨⟨hph, him⟩, h.faults_r1l hroom hheld him⟩

theorem moves_r2 (h : PassAt s .r2 i d) : Moves s i d := by
  have hph := h.phase
  obtain hfull | hroom := Nat.eq_zero_or_pos d.rxb.avail
  · exact ⟨_, _, _, .r2_done hph, h.does_r2_done (.inl hfull)⟩
  · cases hq : (s.uart i).rxFifo with
    | nil => exact ⟨_, _, _, .r2_done hph, h.does_r2_done (.inr hq)⟩
    | cons v q => exact ⟨_, _, _, .r2_move hph hroom, h.does_r2_move hq hroom⟩

theorem moves_r3 (h : PassAt s .r3 i d) : Moves s i d := by
  have hph := h.phase
  by_cases hl : s.lingers d = true
  · obtain ⟨-, -, -, hleft⟩ := State.lingers_iff.1 hl
    by_cases hq : (s.uart i).rxFifo = []
    · exact ⟨_, _, _, .r3_miss hph hleft, h.does_r3_miss hl hq⟩
    · exact ⟨_, _, _, .r3_hit hph hleft, h.does_r3_hit hl hq⟩
  · exact ⟨_, _, _, .r3_done hph, h.does_r3_done hl⟩

theorem moves_t1 {cap : Nat} (h : PassAt s .t1 i d) (hwf : d.txb.Wf cap) : Moves s i d := by
  have hph := h.phase
  by_cases hend : d.txb.used = 0 ∨ s.params.hwTxDepth ≤ (s.uart i).txFifo.length
  · exact ⟨_, _, _, .t1_done hph hend, h.does_t1_done hend⟩
  obtain ⟨hheld, hspace⟩ := not_or.1 hend
  have hspace := Nat.lt_of_not_le hspace
  cases hc : d.txb.contents with
  | nil => exact absurd (by rw [← Ring.contents_length, hc]; rfl) hheld
  | cons v rest => exact ⟨_, _, _, .t1_move hph hc hspace, h.does_t1_move hwf hc hspace⟩

/-- A pass in flight moves on, but for the fault of `R1L`. -/
theorem PassAt.moves {cap : Nat} (h : PassAt s ph i d) (hph : ph ≠ .idle) (hwf : d.txb.Wf cap) :
    Moves s i d ∨ (RaceDue s i ∧ Faults (.pstep i) s .auxRace) := by
  have hat := h.phase
  cases ph with
  | idle => exact absurd rfl hph
  | r1 => exact .inl (moves_r1 h)
  | r1l => exact moves_r1l h
  | r2 => exact .inl (moves_r2 h)
  | r3 => exact .inl (moves_r3 h)
  | r4 => exact .inl ⟨_, _, _, .r4 hat, h.does_r4⟩
  | t1 => exact .inl (moves_t1 h hwf)
  | t2 => exact .inl ⟨_, _, _, .t2 hat, h.does_t2⟩
  | b1 => exact .inl ⟨_, _, _, .b1 hat, h.does_b1⟩

/-! ## The measure, from the driver state and the sequencer -/

/-- `State.passMeasure` of a pass at `ph` with `polls` linger polls left, on a UART with driver state `d`. -/
def PassPh.measure (ph : PassPh) (d : Driver) (polls : Nat) : Nat :=
  match ph with
  | .idle => 0
  | .r1 => d.rxb.avail + d.txb.used + 2 * polls + 8
  | .r1l => d.rxb.avail + d.txb.used + 2 * polls + 7
  | .r2 => d.rxb.avail + d.txb.used + 2 * polls + 6
  | .r3 => d.rxb.avail + d.txb.used + 2 * polls + 5
  | .r4 => d.txb.used + 4
  | .t1 => d.txb.used + 3
  | .t2 => 2
  | .b1 => 1

theorem State.passMeasure_of_idle (h : s.pass.ph = .idle) : s.passMeasure = 0 := by
  unfold State.passMeasure
  cases (s.uart s.pass.inst).driver with
  | none => rfl
  | some d => simp only [h]

theorem State.passMeasure_eq (hd : (s.uart s.pass.inst).driver = some d) :
    s.passMeasure = s.pass.ph.measure d s.pass.lingerLeft := by
  unfold State.passMeasure PassPh.measure
  cases s.pass.ph <;> simp only [hd]

theorem PassPh.measure_pos (hph : ph ≠ .idle) (d : Driver) (polls : Nat) : 0 < ph.measure d polls := by
  cases ph with
  | idle => exact absurd rfl hph
  | _ => exact Nat.succ_pos _

/-- The measure reads the main buffers and nothing else of the driver state. -/
theorem PassPh.measure_congr (ph : PassPh) (polls : Nat) (hrxb : e.rxb = d.rxb) (htxb : e.txb = d.txb) :
    ph.measure e polls = ph.measure d polls := by
  unfold PassPh.measure
  rw [hrxb, htxb]

/-! ## Every move lowers it -/

theorem Ring.Wf.avail_lt_of_used_lt {cap : Nat} {a b : Ring} (ha : a.Wf cap) (hb : b.Wf cap) (h : b.used < a.used) :
    a.avail < b.avail := by
  have hspaceA := ha.used_add_avail
  have hspaceB := hb.used_add_avail
  omega

theorem Driver.Wf.moveAux_avail_lt {p : Params} {fc : Bool} (h : d.Wf p fc) (hroom : 0 < d.rxb.avail)
    (hheld : 0 < d.aux.used) : (d.moveAux (min d.rxb.avail d.aux.used)).rxb.avail < d.rxb.avail := by
  obtain ⟨hwf, hused, -⟩ := Driver.moveAux_rxb h.aux h.rxb (Nat.min_le_left d.rxb.avail d.aux.used)
  have hcount := (Ring.getView_count_pos h.aux).2 ⟨Nat.lt_min.2 ⟨hroom, hheld⟩, hheld⟩
  exact hwf.avail_lt_of_used_lt h.rxb (by omega)

theorem PassMove.measure_lt {p : Params} {fc : Bool} (h : PassMove n u d y u' e z) (hwf : d.Wf p fc) :
    z.ph.measure e z.lingerLeft < y.ph.measure d y.lingerLeft := by
  cases h with
  | r1l_move hph hroom hheld =>
    have hless := hwf.moveAux_avail_lt hroom hheld
    have htxb : (d.moveAux (min d.rxb.avail d.aux.used)).txb = d.txb := rfl
    simp only [hph, PassPh.measure, htxb]
    omega
  | @r2_move v q hph hroom =>
    obtain ⟨hwf', hused, -⟩ := hwf.rxb.append_of_avail hroom v
    have hless := hwf'.avail_lt_of_used_lt hwf.rxb (by omega)
    simp only [hph, PassPh.measure]
    omega
  | t1_move hph hc =>
    have hheld := Ring.used_pos_of_contents hc
    simp only [hph, PassPh.measure, Ring.consume]
    omega
  | r1_mask hph | r1_skip hph | r1l_done hph | r2_done hph | r3_hit hph | r3_miss hph | r3_done hph | r4 hph
  | t1_done hph | t2 hph | b1 hph =>
    simp only [hph, PassPh.measure, idlePass_ph]
    omega

/-- The measure after a step of the pass, whether or not the pass has ended. -/
theorem PassMove.passMeasure_eq (h : PassMove n u d s.pass (t.uart s.pass.inst) e t.pass)
    (hd : u.driver = some d) : t.passMeasure = t.pass.ph.measure e t.pass.lingerLeft := by
  by_cases hz : t.pass.ph = .idle
  · rw [State.passMeasure_of_idle hz, hz]
    rfl
  · have hinst := h.inst hz
    exact State.passMeasure_eq (by rw [hinst]; exact h.driver hd)

/-! ## The pass in flight, under the invariant -/

theorem State.Inv.pass_driver (hs : s.Inv) (hph : s.pass.ph ≠ .idle) :
    ∃ d, (s.uart s.pass.inst).driver = some d ∧ d.Wf s.params (s.fcSupported s.pass.inst) := by
  obtain ⟨d, hd⟩ := State.bound_iff.1 (hs.passBound hph).2
  exact ⟨d, hd, (hs.uarts _).driver d hd⟩

theorem State.Inv.passAt (hs : s.Inv) (hisr : s.isr.ph = .idle) (hph : s.pass.ph ≠ .idle)
    (hd : (s.uart s.pass.inst).driver = some d) : PassAt s s.pass.ph s.pass.inst d :=
  ⟨hisr, rfl, rfl, State.hasInst_iff.1 (hs.passBound hph).1, hd⟩

/-- An ok `PSTEP` of the pass in flight ran in task context, and is a move. -/
theorem passMove_of_exec_ok (hs : s.Inv) (hph : s.pass.ph ≠ .idle) (hd : (s.uart s.pass.inst).driver = some d)
    (h : exec (.pstep s.pass.inst) s = .next t) (hr : t.reply = .ok none) :
    ∃ e, PassMove s.params.hwTxDepth (s.uart s.pass.inst) d s.pass (t.uart s.pass.inst) e t.pass := by
  obtain ⟨-, rfl⟩ | ⟨hisr, -⟩ := State.inTask_next h
  · cases hr
  have hat := hs.passAt hisr hph hd
  obtain ⟨u, e, z, hmove, w, hw, -, rfl, -, rfl, -⟩ | ⟨-, hfault⟩ := hat.moves hph ((hs.uarts _).driver d hd).txb
  · obtain rfl := Host.Outcome.next.inj (hw.symm.trans h)
    exact ⟨e, hmove⟩
  · obtain rfl := Host.Outcome.next.inj (hfault.symm.trans h)
    cases hr

theorem passMeasure_lt (hs : s.Inv) (hph : s.pass.ph ≠ .idle) (h : exec (.pstep s.pass.inst) s = .next t)
    (hr : t.reply = .ok none) : t.passMeasure < s.passMeasure := by
  obtain ⟨d, hd, hwf⟩ := hs.pass_driver hph
  obtain ⟨e, hmove⟩ := passMove_of_exec_ok hs hph hd h hr
  rw [State.passMeasure_eq hd, hmove.passMeasure_eq hd]
  exact hmove.measure_lt hwf

/-! ## No other word moves it -/

/-- TXPUT writes only while the lock is free (41_ring_buffer.md R131). -/
theorem execTxput_lock_free {j : InstId} {v : Byte} (h : execTxput i v s = .next t) (hne : t.uart j ≠ s.uart j) :
    s.pass.ph = .idle := by
  obtain ⟨-, rfl⟩ | ⟨-, h⟩ := State.inTask_next h
  · exact absurd rfl hne
  obtain ⟨-, h⟩ | ⟨-, h⟩ := State.onInst_next h
  · exact absurd (by rw [State.raise_next h]; rfl) hne
  obtain ⟨-, h⟩ | ⟨d, -, h⟩ := State.onBound_next h
  · exact absurd (by rw [State.raise_next h]; rfl) hne
  obtain ⟨-, rfl⟩ | ⟨hph, -⟩ := State.withLock_next h
  · exact absurd rfl hne
  · exact hph

/-- A bound UART stays bound with its main buffers, but for TXPUT, RXGET, PSTEP and DEINIT. -/
theorem UartStep.mainBuffers (h : UartStep s x u) (hd : (s.uart x.inst).driver = some d) :
    (∃ e, u.driver = some e ∧ e.rxb = d.rxb ∧ e.txb = d.txb) ∨ (∃ v, x = .txput x.inst v) ∨ x = .rxget x.inst ∨
      x = .pstep x.inst ∨ s.passOn x.inst = false := by
  cases h with
  | txput => exact .inr (.inl ⟨_, rfl⟩)
  | rxget => exact .inr (.inr (.inl rfl))
  | r1l | r2 | t1 => exact .inr (.inr (.inr (.inl rfl)))
  | deinit _ hpass => exact .inr (.inr (.inr (.inr hpass)))
  | init hn => exact absurd (hn.symm.trans hd) nofun
  | setrxen hd' | count hd' | i4l hd' | r3 hd' =>
    obtain rfl := Option.some.inj (hd'.symm.trans hd)
    exact .inl ⟨_, rfl, rfl, rfl⟩
  | _ => exact .inl ⟨d, hd, rfl, rfl⟩

theorem State.passOn_inst (hph : s.pass.ph ≠ .idle) : s.passOn s.pass.inst = true := by
  simp [State.passOn, hph]

/-- The lock keeps the main buffers of the pass's UART from every word but its PSTEP (43_dispatch.md R166). -/
theorem exec_keeps_mainBuffers (hph : s.pass.ph ≠ .idle) (hx : x ≠ .pstep s.pass.inst) (h : exec x s = .next t)
    (hd : (s.uart s.pass.inst).driver = some d) :
    ∃ e, (t.uart s.pass.inst).driver = some e ∧ e.rxb = d.rxb ∧ e.txb = d.txb := by
  by_cases hne : t.uart s.pass.inst = s.uart s.pass.inst
  · exact ⟨d, by rw [hne, hd], rfl, rfl⟩
  have hinst := (exec_writes h).inst_of_ne hne
  rw [hinst] at hd hx hne ⊢
  obtain hkept | ⟨v, hput⟩ | hget | hpstep | hoff := (exec_writes h).uart.mainBuffers hd
  · exact hkept
  · rw [hput] at h
    exact absurd (execTxput_lock_free h hne) hph
  · rw [hget] at h
    exact absurd (execRxget_lock_free h hne) hph
  · exact absurd hpstep hx
  · rw [← hinst, State.passOn_inst hph] at hoff
    cases hoff

theorem exec_keeps_pass (hph : s.pass.ph ≠ .idle) (hx : x ≠ .pstep s.pass.inst) (h : exec x s = .next t) :
    t.pass = s.pass := by
  cases x with
  | pstep i =>
    by_contra hmoved
    obtain ⟨-, rfl, -⟩ := execPstep_served (j := i) h hph (.inr hmoved)
    exact hx rfl
  | _ => exact exec_keepsPass s (by nofun) t h

theorem exec_keeps_passMeasure (hs : s.Inv) (hph : s.pass.ph ≠ .idle) (hx : x ≠ .pstep s.pass.inst)
    (h : exec x s = .next t) : t.pass = s.pass ∧ t.passMeasure = s.passMeasure := by
  have hpass := exec_keeps_pass hph hx h
  obtain ⟨d, hd, -⟩ := hs.pass_driver hph
  obtain ⟨e, he, hrxb, htxb⟩ := exec_keeps_mainBuffers hph hx h hd
  rw [← hpass] at he
  refine ⟨hpass, ?_⟩
  rw [State.passMeasure_eq hd, State.passMeasure_eq he, hpass, PassPh.measure_congr _ _ hrxb htxb]

theorem passMeasure_le_of_r1 (hs : s.Inv) (hph : s.pass.ph = .r1) :
    s.passMeasure ≤ s.params.rxCap + s.params.txCap + 2 * s.lingerBudget s.pass.inst + 8 := by
  have hin : s.pass.ph ≠ .idle := by rw [hph]; nofun
  obtain ⟨d, hd, hwf⟩ := hs.pass_driver hin
  have hlinger := hs.passLinger hin
  have hrxb := hwf.rxb.used_add_avail
  obtain ⟨-, -, htxb⟩ := hwf.txb
  rw [State.passMeasure_eq hd, hph]
  simp only [PassPh.measure]
  omega

/-- Settles O41: a step of the pass is a row of `PassMove`, and each row lowers the measure. -/
theorem passMeasureFalls : Obligations.PassMeasureFalls := by
  refine ⟨fun x s t hs hph h => ⟨fun hx hr => ?step, fun hx => exec_keeps_passMeasure hs hph hx h⟩,
    fun s hs hph => passMeasure_le_of_r1 hs hph⟩
  case step =>
    subst hx
    exact passMeasure_lt hs hph h hr

end Sys2Proof.Machine
end

section
/-! PROOFS. A whole pass with nothing interleaved (43_dispatch.md R176, R177). The measure bounds its length. `R1` masks
the receive interrupts before `R1L`, so no move races; and what the pass will leave of the transmit side is the same
before and after each of its moves, so it is what the pass has left at the end. -/

namespace Sys2Proof.Machine

variable {s t w : State} {i : InstId} {u u' : Uart} {y z : Pass} {d e : Driver} {n m : Nat}

/-! ## The transmit side (R172) -/

/-- What a pass does to the transmit side of its UART. -/
structure TxSide where
  /-- The transmit FIFO. -/
  fifo : List Byte
  /-- The contents of `TXB`. -/
  held : List Byte
  /-- The counter `tx_bytes`. -/
  sent : Word

/-- The transmit side of a UART once the oldest `m` bytes of `TXB` are sent. -/
def txSideAfter (u : Uart) (d : Driver) (m : Nat) : TxSide where
  fifo := u.txFifo ++ d.txb.contents.take m
  held := d.txb.contents.drop m
  sent := d.stats.txBytes + BitVec.ofNat 32 m

/-- The bytes that `T1` will still send for a pass at `ph`, into a FIFO of depth `n`. -/
def PassPh.willSend (ph : PassPh) (n : Nat) (u : Uart) (d : Driver) : Nat :=
  match ph with
  | .r1 | .r1l | .r2 | .r3 | .r4 | .t1 => min d.txb.used (n - u.txFifo.length)
  | .idle | .t2 | .b1 => 0

theorem txSideAfter_zero (u : Uart) (d : Driver) :
    txSideAfter u d 0 = ⟨u.txFifo, d.txb.contents, d.stats.txBytes⟩ := by
  simp only [txSideAfter, List.take_zero, List.append_nil, List.drop_zero, TxSide.mk.injEq, true_and]
  exact BitVec.add_zero _

/-- Sending a byte and then `m` more is sending `m + 1`. -/
theorem txSideAfter_succ {v : Byte} {rest : List Byte} (hc : d.txb.contents = v :: rest)
    (hfifo : u'.txFifo = u.txFifo ++ [v]) (hrest : e.txb.contents = rest)
    (hsent : e.stats.txBytes = inc32 d.stats.txBytes) : txSideAfter u' e m = txSideAfter u d (m + 1) := by
  have hcount : inc32 d.stats.txBytes + BitVec.ofNat 32 m = d.stats.txBytes + BitVec.ofNat 32 (m + 1) := by
    rw [inc32, BitVec.add_assoc, BitVec.add_comm 1, BitVec.ofNat_add]
    rfl
  simp only [txSideAfter, hfifo, hrest, hsent, hcount, hc, List.take_succ_cons, List.drop_succ_cons, List.append_assoc,
    List.singleton_append]

/-- A move of `T1` leaves one byte fewer to send. -/
theorem willSend_t1_succ {v : Byte} {rest : List Byte} (hc : d.txb.contents = v :: rest)
    (hspace : u.txFifo.length < n) (hfifo : u'.txFifo = u.txFifo ++ [v]) (hused : e.txb.used = d.txb.used - 1) :
    PassPh.t1.willSend n u d = PassPh.t1.willSend n u' e + 1 := by
  have hheld := Ring.used_pos_of_contents hc
  simp only [PassPh.willSend, hfifo, hused, List.length_append, List.length_singleton]
  omega

/-- What the pass will leave of the transmit side is the same before and after each move. -/
theorem PassMove.txSide {cap : Nat} (h : PassMove n u d y u' e z) (hwf : d.txb.Wf cap) :
    txSideAfter u' e (z.ph.willSend n u' e) = txSideAfter u d (y.ph.willSend n u d) := by
  cases h with
  | t1_move hph hc hspace =>
    obtain ⟨-, hrest⟩ := hwf.viewBytes_one_of_contents hc
    rw [hph]
    exact (txSideAfter_succ hc rfl hrest rfl).trans
      (congrArg (txSideAfter u d) (willSend_t1_succ hc hspace rfl rfl).symm)
  | t1_done hph hend =>
    have hnone : PassPh.t1.willSend n u d = 0 := by simp only [PassPh.willSend]; omega
    rw [hph, hnone]
    rfl
  | r1_mask hph | r1_skip hph | r1l_move hph | r1l_done hph | r2_move hph | r2_done hph | r3_hit hph | r3_miss hph
  | r3_done hph | r4 hph | t2 hph | b1 hph =>
    simp only [hph] <;> rfl

/-! ## The receive interrupts are masked at R1L (R163, R164) -/

/-- A pass at `R1L` finds the receive interrupts of its UART masked. -/
def RxMasked (y : Pass) (u : Uart) : Prop := y.ph = .r1l → u.im &&& rxInts = 0

theorem clearBits_and_self (a b : Mask) : clearBits a b &&& b = 0 := by
  revert a b
  decide

theorem PassMove.rxMasked (h : PassMove n u d y u' e z) (hmask : RxMasked y u) : RxMasked z u' := by
  intro hz
  cases h with
  | r1_mask => exact clearBits_and_self _ _
  | r1l_move hph => exact hmask hph
  | r2_move hph | r3_miss hph | t1_move hph => exact absurd (hph.symm.trans hz) nofun
  | _ => cases hz

/-! ## Runs of PSTEP -/

theorem passRun_succ_of_inFlight (h : exec (.pstep i) s = .next w) (hw : w.pass.ph ≠ .idle) (n : Nat) :
    passRun i (n + 1) s = passRun i n w := by
  simp only [passRun, h, if_neg hw]

theorem passRun_succ_of_idle (h : exec (.pstep i) s = .next w) (hw : w.pass.ph = .idle) (n : Nat) :
    passRun i (n + 1) s = .next w := by
  simp only [passRun, h, if_pos hw]

/-- A pass on `i`, bound with driver state `d`, is in flight in task context, and nothing has unmasked the receive
interrupts behind its back. -/
structure Undisturbed (s : State) (i : InstId) (d : Driver) : Prop where
  inv : s.Inv
  isr : s.isr.ph = .idle
  inFlight : s.pass.ph ≠ .idle
  inst : s.pass.inst = i
  driver : (s.uart i).driver = some d
  masked : RxMasked s.pass (s.uart i)

/-- Its next `PSTEP` is a move, with no fault, and leaves it undisturbed. -/
theorem Undisturbed.step (h : Undisturbed s i d) :
    ∃ w e, exec (.pstep i) s = .next w ∧ w.fault = s.fault ∧ w.params = s.params ∧
      PassMove s.params.hwTxDepth (s.uart i) d s.pass (w.uart i) e w.pass ∧ (w.uart i).driver = some e ∧
      (w.pass.ph ≠ .idle → Undisturbed w i e) := by
  obtain ⟨hs, hisr, hph, rfl, hd, hmask⟩ := h
  have hat := hs.passAt hisr hph hd
  obtain ⟨u, e, z, hmove, w, hw, -, rfl, hisr', rfl, hframe⟩ | ⟨⟨hr1l, hrace⟩, -⟩ :=
    hat.moves hph ((hs.uarts _).driver d hd).txb
  · have he := hmove.driver hd
    exact ⟨w, e, hw, hframe.fault, hframe.params, hmove, he, fun hin =>
      ⟨exec_keeps_inv hs hw, by rwa [hisr'], hin, hmove.inst hin, he, hmove.rxMasked hmask⟩⟩
  · exact absurd (hmask hr1l) hrace

/-- From `s` the pass on `i` ends within `n` words, with no fault, and leaves the transmit side at `x`. -/
def PassEnds (i : InstId) (n : Nat) (s : State) (x : TxSide) : Prop :=
  ∃ t e, passRun i n s = .next t ∧ t.pass.ph = .idle ∧ t.fault = s.fault ∧ (t.uart i).driver = some e ∧
    txSideAfter (t.uart i) e 0 = x

theorem PassEnds.last {x : TxSide} (h : exec (.pstep i) s = .next w) (hw : w.pass.ph = .idle)
    (hfault : w.fault = s.fault) (hd : (w.uart i).driver = some d) (hx : txSideAfter (w.uart i) d 0 = x) :
    PassEnds i (n + 1) s x :=
  ⟨w, d, passRun_succ_of_idle h hw n, hw, hfault, hd, hx⟩

theorem PassEnds.cons {x : TxSide} (h : exec (.pstep i) s = .next w) (hw : w.pass.ph ≠ .idle)
    (hfault : w.fault = s.fault) (hrest : PassEnds i n w x) : PassEnds i (n + 1) s x := by
  obtain ⟨t, e, hrun, ht, htfault, he, hx⟩ := hrest
  exact ⟨t, e, (passRun_succ_of_inFlight h hw n).trans hrun, ht, htfault.trans hfault, he, hx⟩

/-- An undisturbed pass ends within its measure, by induction on the words allowed. -/
theorem Undisturbed.passEnds (h : Undisturbed s i d) (hn : s.pass.ph.measure d s.pass.lingerLeft ≤ n) :
    PassEnds i n s (txSideAfter (s.uart i) d (s.pass.ph.willSend s.params.hwTxDepth (s.uart i) d)) := by
  induction n generalizing s d with
  | zero => exact absurd (PassPh.measure_pos h.inFlight d s.pass.lingerLeft) (Nat.not_lt.2 hn)
  | succ n ih =>
    obtain ⟨w, e, hexec, hfault, hparams, hmove, he, hundisturbed⟩ := h.step
    have hwf := (h.inv.uarts i).driver d h.driver
    have hside := hmove.txSide hwf.txb
    by_cases hw : w.pass.ph = .idle
    · rw [hw] at hside
      exact .last hexec hw hfault he hside
    · have hrest := ih (hundisturbed hw) (Nat.le_of_lt_succ ((hmove.measure_lt hwf).trans_le hn))
      rw [hparams, hside] at hrest
      exact .cons hexec hw hfault hrest

/-! ## From the request (R162) -/

/-- The measure just after `D0`. -/
theorem measure_startedPass_le {fc : Bool} (hwf : d.Wf s.params fc) (hd : (s.uart i).driver = some d) :
    PassPh.r1.measure d (startedPass s.params i d).lingerLeft + 1 ≤ s.passBound i := by
  have hbudget : s.lingerBudget i = (startedPass s.params i d).lingerLeft := by
    simp only [State.lingerBudget, hd, startedPass]
  have hrxb := hwf.rxb.used_add_avail
  obtain ⟨-, -, htxb⟩ := hwf.txb
  simp only [PassPh.measure, State.passBound, hbudget]
  omega

theorem passEnds_of_request (hs : s.Inv) (hr : TaskReady s i) (hph : s.pass.ph = .idle)
    (hreq : (s.uart i).dispReq = true) (hd : (s.uart i).driver = some d) :
    PassEnds i (s.passBound i) s
      (txSideAfter (s.uart i) d (min d.txb.used (s.params.hwTxDepth - (s.uart i).txFifo.length))) := by
  obtain ⟨w, hexec, -, hu, hisr, hpass, hframe⟩ := does_d0 hr hph hreq hd
  have hin : w.pass.ph ≠ .idle := by rw [hpass]; nofun
  have hundisturbed : Undisturbed w i d :=
    { inv := exec_keeps_inv hs hexec
      isr := by rw [hisr]; exact hr.1
      inFlight := hin
      inst := by rw [hpass]; rfl
      driver := by rw [hu]; exact hd
      masked := by rw [hpass]; exact nofun }
  obtain ⟨n, hbound⟩ : ∃ n, s.passBound i = n + 1 := ⟨_, rfl⟩
  have hmeasure := measure_startedPass_le ((hs.uarts i).driver d hd) hd
  rw [hbound] at hmeasure ⊢
  have hrest := hundisturbed.passEnds (n := n) (by rw [hpass]; exact Nat.le_of_succ_le_succ hmeasure)
  rw [hpass, hframe.params, hu] at hrest
  exact .cons hexec hin hframe.fault hrest

/-- Settles O42: the request starts a pass, which ends undisturbed with the transmit side as foreseen. -/
theorem passEndsAndTransmits : Obligations.PassEndsAndTransmits := by
  intro i s d hs hisr hph hn hreq hd m
  obtain ⟨t, e, hrun, ht, hfault, he, hside⟩ := passEnds_of_request hs ⟨hisr, hn⟩ hph hreq hd
  rw [txSideAfter_zero] at hside
  obtain ⟨hfifo, hheld, hsent⟩ := TxSide.mk.inj hside
  exact ⟨t, e, hrun, ht, hfault, hfifo, he, hheld, hsent⟩

end Sys2Proof.Machine
end

section
/-! PROOFS. The host commands (44_host_lifecycle.md). `DEINIT`, `SETRXEN` and `FLUSH` have the checks of a word that
needs driver state and then an effect; `INIT` has an order of checks of its own; `RDCSR` answers a register of the table
of 10_state.md R40 behind the checks of that register's kind. -/

namespace Sys2Proof.Machine

variable {s : State} {x : Instr} {i : InstId} {d : Driver} {n : Byte} {flag rxFc txFc : Bool} {l : BitVec 22}

/-! ## INIT (R200, R202) -/

theorem holds_init (hph : s.isr.ph ≠ .idle) : Holds (.init i rxFc txFc l) s := State.inTask_busy hph

theorem reads_init_of_missing (hph : s.isr.ph = .idle) (hn : s.params.numInst ≤ i.toNat) :
    Reads (.init i rxFc txFc l) s 0xFFFFFFFF :=
  (State.inTask_idle hph).trans (if_pos (by simpa [State.hasInst] using hn))

/-- The driver state that `INIT` binds. -/
def initDriver (s : State) (rxFc txFc : Bool) (l : BitVec 22) : Driver :=
  Driver.fresh s.params { rxFc := rxFc, txFc := txFc, lingerUs := l } s.draws

theorem exec_init (hr : TaskReady s i) :
    exec (.init i rxFc txFc l) s =
      if s.bound i then s.raise .doubleInit
      else if (rxFc || txFc) && !s.fcSupported i then s.okWith initFailure
      else if ¬ s.allocOk then s.okWith initFailure
      else ((s.setUart i { s.uart i with driver := some (initDriver s rxFc txFc l), pen := true, im := 0 }).drew
        3).okWith 0 := by
  obtain ⟨hph, hn⟩ := hr
  exact (State.inTask_idle hph).trans (if_neg (not_not.2 (State.hasInst_iff.2 hn)))

theorem faults_init_of_bound (hr : TaskReady s i) (hd : (s.uart i).driver ≠ none) :
    Faults (.init i rxFc txFc l) s .doubleInit :=
  (exec_init hr).trans (if_pos (Option.isSome_iff_ne_none.2 hd))

theorem State.not_bound_of_driver_none (hd : (s.uart i).driver = none) : ¬ s.bound i = true := by
  rw [State.bound, hd]
  nofun

/-- R201: flow control is asked for where there are no pins. -/
theorem flowUnsupported_iff :
    ((rxFc || txFc) && !s.fcSupported i) = true ↔ (rxFc = true ∨ txFc = true) ∧ s.fcSupported i = false := by
  rw [Bool.and_eq_true, Bool.or_eq_true, Bool.not_eq_true']

theorem reads_init_of_refused (hr : TaskReady s i) (hd : (s.uart i).driver = none)
    (h : (rxFc = true ∨ txFc = true) ∧ s.fcSupported i = false ∨ s.allocOk = false) :
    Reads (.init i rxFc txFc l) s 0xFFFFFFFF := by
  rw [Reads, exec_init hr, if_neg (State.not_bound_of_driver_none hd)]
  by_cases hflow : ((rxFc || txFc) && !s.fcSupported i) = true
  · rw [if_pos hflow]
    rfl
  · have halloc := h.resolve_left (mt flowUnsupported_iff.2 hflow)
    rw [if_neg hflow, if_pos (ne_true_of_eq_false halloc)]
    rfl

theorem does_of_exec_setUart_drew {u : Uart} {v : Word} {k : Nat}
    (h : exec x s = ((s.setUart i u).drew k).okWith v) : Does x s i u s.isr s.pass (some v) :=
  ⟨_, h, rfl, State.uart_setUart_self s i u, rfl, rfl, fun _ hj => State.uart_setUart_ne s u hj, rfl, rfl, rfl, rfl⟩

theorem does_init (hr : TaskReady s i) (hd : (s.uart i).driver = none)
    (hflow : rxFc = true ∨ txFc = true → s.fcSupported i = true) (halloc : s.allocOk = true) :
    Does (.init i rxFc txFc l) s i
      { s.uart i with driver := some (initDriver s rxFc txFc l), pen := true, im := 0 } s.isr s.pass (some 0) := by
  have hsupported : ¬ ((rxFc || txFc) && !s.fcSupported i) = true := fun h => by
    obtain ⟨hasked, hlacks⟩ := flowUnsupported_iff.1 h
    exact absurd hlacks (ne_false_of_eq_true (hflow hasked))
  have hexec := exec_init (rxFc := rxFc) (txFc := txFc) (l := l) hr
  rw [if_neg (State.not_bound_of_driver_none hd), if_neg hsupported, if_neg (not_not.2 halloc)] at hexec
  exact does_of_exec_setUart_drew hexec

/-- Settles O43: the checks in their order, then an instance bound with fresh buffers. -/
theorem initBindsInstance : Obligations.InitBindsInstance := by
  intro i rxFc txFc l s hp
  refine ⟨rfl, holds_init, reads_init_of_missing, faults_init_of_bound, fun hr hd =>
    ⟨reads_init_of_refused hr hd, fun hflow halloc => ?bind⟩⟩
  case bind =>
    obtain ⟨haux, hrxb, htxb, -⟩ : (initDriver s rxFc txFc l).Wf s.params (rxFc || txFc) := Driver.fresh_wf hp id
    exact ⟨initDriver s rxFc txFc l, rfl, rfl, rfl, ⟨haux, rfl, rfl⟩, ⟨hrxb, rfl, rfl⟩, ⟨htxb, rfl, rfl⟩,
      does_init hr hd hflow halloc⟩

/-! ## Words behind the driver check (60_exceptions.md R233) -/

theorem BehindTaskChecks.exec_of_bound {k : Driver → Result} (h : BehindTaskChecks x s (s.onBound x.inst k))
    (hr : TaskReady s x.inst) (hd : (s.uart x.inst).driver = some d) : exec x s = k d :=
  (h.exec_eq hr).trans (State.onBound_some hd)

theorem State.passOn_iff : s.passOn i = true ↔ s.pass.ph ≠ .idle ∧ s.pass.inst = i := by
  simp [State.passOn]

theorem State.passOn_eq_false_iff : s.passOn i = false ↔ s.pass.ph = .idle ∨ s.pass.inst ≠ i := by
  rw [← Bool.not_eq_true, State.passOn_iff, not_and_or, not_not]

/-! ## DEINIT (R203) -/

theorem deinit_behindTaskChecks (i : InstId) (s : State) : BehindTaskChecks (.deinit i) s
    (s.onBound i fun _ => if s.passOn i then s.raise .deinitDuringPass
      else (s.setUart i { s.uart i with pen := false, im := 0, driver := none }).ok) := rfl

theorem exec_deinit (hr : TaskReady s i) (hd : (s.uart i).driver ≠ none) :
    exec (.deinit i) s = if s.passOn i then s.raise .deinitDuringPass
      else (s.setUart i { s.uart i with pen := false, im := 0, driver := none }).ok := by
  obtain ⟨d, hd⟩ := Option.ne_none_iff_exists'.1 hd
  exact (deinit_behindTaskChecks i s).exec_of_bound hr hd

/-- Settles O44: past the checks a pass on the instance is in flight, which is the fault, or none is. -/
theorem deinitUnbindsInstance : Obligations.DeinitUnbindsInstance := fun i s =>
  ⟨rfl, (deinit_behindTaskChecks i s).boundChecks, fun hr hd =>
    ⟨fun hph hinst => (exec_deinit hr hd).trans (if_pos (State.passOn_iff.2 ⟨hph, hinst⟩)),
      fun hoff => does_of_exec_setUart
        ((exec_deinit hr hd).trans (if_neg (ne_true_of_eq_false (State.passOn_eq_false_iff.2 hoff))))⟩⟩

/-! ## SETRXEN (R205) -/

theorem setrxen_behindTaskChecks (i : InstId) (flag : Bool) (s : State) : BehindTaskChecks (.setrxen i flag) s
    (s.onBound i fun d => (s.setUart i { s.uart i with
      driver := some { d with rxEnabled := flag }
      rtr := if flag then (if d.cfg.rxFc then true else (s.uart i).rtr) else false }).ok) := rfl

theorem does_setrxen (hr : TaskReady s i) (hd : (s.uart i).driver = some d) :
    Does (.setrxen i flag) s i { s.uart i with
      driver := some { d with rxEnabled := flag }
      rtr := if flag then (if d.cfg.rxFc then true else (s.uart i).rtr) else false } s.isr s.pass none :=
  does_of_exec_setUart ((setrxen_behindTaskChecks i flag s).exec_of_bound hr hd)

/-- Settles O45: the flag and the receive flow control of the configuration choose the ready line. -/
theorem setrxenWritesFlagAndReadyLine : Obligations.SetrxenWritesFlagAndReadyLine := by
  intro i flag s
  refine ⟨?encoding, (setrxen_behindTaskChecks i flag s).boundChecks, fun d hr hd => ?effect⟩
  case encoding => rw [← setWidth_ofBool]; rfl
  case effect =>
    have hdoes := does_setrxen (flag := flag) hr hd
    refine ⟨?assert, ?leave, ?clear⟩
    case assert =>
      rintro rfl hfc
      rwa [if_pos rfl, if_pos hfc] at hdoes
    case leave =>
      rintro rfl hfc
      rwa [if_pos rfl, if_neg (ne_true_of_eq_false hfc)] at hdoes
    case clear =>
      rintro rfl
      exact hdoes

/-! ## FLUSH (R207) -/

theorem flush_behindTaskChecks (i : InstId) (s : State) : BehindTaskChecks (.flush i) s
    (s.onBound i fun _ => if 0 < (s.uart i).txFifo.length then s.hold else s.ok) := rfl

theorem exec_flush (hr : TaskReady s i) (hd : (s.uart i).driver ≠ none) :
    exec (.flush i) s = if 0 < (s.uart i).txFifo.length then s.hold else s.ok := by
  obtain ⟨d, hd⟩ := Option.ne_none_iff_exists'.1 hd
  exact (flush_behindTaskChecks i s).exec_of_bound hr hd

/-- Settles O46: past the checks the transmit FIFO holds bytes or is empty. -/
theorem flushWaitsForTransmitFifo : Obligations.FlushWaitsForTransmitFifo := fun i s =>
  ⟨rfl, (flush_behindTaskChecks i s).boundChecks, fun hr hd =>
    ⟨fun hbytes => (exec_flush hr hd).trans (if_pos (List.length_pos_iff.2 hbytes)),
      fun hempty => (exec_flush hr hd).trans (if_neg (by rw [hempty]; exact Nat.lt_irrefl 0))⟩⟩

/-! ## The numbers of the registers (10_state.md R40) -/

/-- The reserved numbers, those of the hardware registers, and those of the driver registers. -/
theorem csrOfNumber_cases (n : Byte) :
    (csrOfNumber n = none ∧ 0x16 < n.toNat) ∨
      (∃ r, csrOfNumber n = some (.hw r) ∧ (n.toNat ≤ 0x03 ∨ 0x0B ≤ n.toNat ∧ n.toNat ≤ 0x0F)) ∨
      ∃ r, csrOfNumber n = some (.drv r) ∧
        (0x04 ≤ n.toNat ∧ n.toNat ≤ 0x0A ∨ 0x10 ≤ n.toNat ∧ n.toNat ≤ 0x16) := by
  unfold csrOfNumber
  split
  all_goals
    simp only [imp_false, reduceCtorEq, Option.some.injEq, Csr.hw.injEq, Csr.drv.injEq, exists_eq_left',
      false_and, true_and] at *
    omega

theorem csrOfNumber_of_reserved (h : 0x16 < n.toNat) : csrOfNumber n = none := by
  obtain ⟨hc, -⟩ | ⟨r, -, hn⟩ | ⟨r, -, hn⟩ := csrOfNumber_cases n
  · exact hc
  · omega
  · omega

theorem csrOfNumber_of_listed (h : n.toNat ≤ 0x16) : ∃ c, csrOfNumber n = some c := by
  obtain ⟨-, hn⟩ | ⟨r, hc, -⟩ | ⟨r, hc, -⟩ := csrOfNumber_cases n
  · omega
  · exact ⟨_, hc⟩
  · exact ⟨_, hc⟩

theorem csrOfNumber_of_driver (h : 0x04 ≤ n.toNat ∧ n.toNat ≤ 0x0A ∨ 0x10 ≤ n.toNat ∧ n.toNat ≤ 0x16) :
    ∃ r, csrOfNumber n = some (.drv r) := by
  obtain ⟨-, hn⟩ | ⟨r, -, hn⟩ | ⟨r, hc, -⟩ := csrOfNumber_cases n
  · omega
  · omega
  · exact ⟨r, hc⟩

/-! ## RDCSR (R208) -/

/-- What `RDCSR` of the register `c` does past its first checks. -/
def Csr.answer (c : Csr) (i : InstId) (s : State) : Result :=
  match c with
  | .hw r => s.okWith (r.value s i)
  | .drv r => s.onBound i fun d => s.okWith (r.value d)

theorem rdcsr_behindTaskChecks {c : Csr} (hc : csrOfNumber n = some c) :
    BehindTaskChecks (.rdcsr i n) s (c.answer i s) := by
  show execRdcsr i n s = s.inTask (s.onInst i (c.answer i s))
  cases c with
  | hw r => simp only [execRdcsr, hc, Csr.answer]
  | drv r => simp only [execRdcsr, hc, Csr.answer]

theorem faults_rdcsr_of_reserved (h : 0x16 < n.toNat) : Faults (.rdcsr i n) s .illegalWord := by
  show execRdcsr i n s = s.applyIllegal
  simp only [execRdcsr, csrOfNumber_of_reserved h]

theorem taskChecks_rdcsr (h : n.toNat ≤ 0x16) : TaskChecks (.rdcsr i n) s := by
  obtain ⟨c, hc⟩ := csrOfNumber_of_listed h
  exact (rdcsr_behindTaskChecks hc).taskChecks

theorem reads_rdcsr_hw {r : HwCsr} (hc : csrOfNumber n = some (.hw r)) (hr : TaskReady s i) :
    Reads (.rdcsr i n) s (r.value s i) :=
  (rdcsr_behindTaskChecks hc).exec_eq hr

theorem reads_rdcsr_drv {r : DrvCsr} (hc : csrOfNumber n = some (.drv r)) (hr : TaskReady s i)
    (hd : (s.uart i).driver = some d) : Reads (.rdcsr i n) s (r.value d) :=
  BehindTaskChecks.exec_of_bound (x := .rdcsr i n) (rdcsr_behindTaskChecks hc) hr hd

theorem faults_rdcsr_of_unbound (hr : TaskReady s i) (hd : (s.uart i).driver = none)
    (h : 0x04 ≤ n.toNat ∧ n.toNat ≤ 0x0A ∨ 0x10 ≤ n.toNat ∧ n.toNat ≤ 0x16) :
    Faults (.rdcsr i n) s .noInstance := by
  obtain ⟨r, hc⟩ := csrOfNumber_of_driver h
  exact ((rdcsr_behindTaskChecks hc).exec_eq hr).trans (State.onBound_none hd)

/-! ## CTL, PASSPH and LINGERLEFT -/

/-- Five bits side by side are the sum of their weights. -/
theorem setWidth_append_ofBool_eq_sum : ∀ b4 b3 b2 b1 b0 : Bool,
    (BitVec.ofBool b4 ++ BitVec.ofBool b3 ++ BitVec.ofBool b2 ++ BitVec.ofBool b1 ++ BitVec.ofBool b0 :
      BitVec 5).setWidth 32 =
    ((if b0 then 1 else 0) + (if b1 then 2 else 0) + (if b2 then 4 else 0) + (if b3 then 8 else 0) +
      (if b4 then 16 else 0) : Word) := by
  decide

theorem Uart.ctl_setWidth (u : Uart) :
    u.ctl.setWidth 32 =
      ((if u.pen then 1 else 0) + (if u.rtr then 2 else 0) +
        (if u.driver.any (fun d => d.rxEnabled) then 4 else 0) + (if u.driver = none then 0 else 8) +
        (if u.dispReq then 16 else 0) : Word) := by
  rw [Uart.ctl, setWidth_append_ofBool_eq_sum]
  cases u.driver with
  | none => rfl
  | some d => rfl

theorem reads_pass_of_off (hr : TaskReady s i) (hoff : s.pass.ph = .idle ∨ s.pass.inst ≠ i) :
    Reads (.rdcsr i 0x0D) s 0 ∧ Reads (.rdcsr i 0x0E) s 0 := by
  have hph := reads_rdcsr_hw (n := 0x0D) (r := .passph) rfl hr
  have hleft := reads_rdcsr_hw (n := 0x0E) (r := .lingerleft) rfl hr
  simp only [HwCsr.value, State.passOn_eq_false_iff.2 hoff] at hph hleft
  exact ⟨hph, hleft⟩

theorem reads_pass_of_on (hr : TaskReady s i) (hph : s.pass.ph ≠ .idle) (hinst : s.pass.inst = i) :
    Reads (.rdcsr i 0x0D) s (countWord s.pass.ph.code) ∧ Reads (.rdcsr i 0x0E) s (countWord s.pass.lingerLeft) := by
  have hcode := reads_rdcsr_hw (n := 0x0D) (r := .passph) rfl hr
  have hleft := reads_rdcsr_hw (n := 0x0E) (r := .lingerleft) rfl hr
  simp only [HwCsr.value, State.passOn_iff.2 ⟨hph, hinst⟩, if_true] at hcode hleft
  exact ⟨hcode, hleft⟩

theorem reads_passph {p : PassPh} (hp : p ≠ .idle) (hr : TaskReady s i) (hinst : s.pass.inst = i)
    (hph : s.pass.ph = p) : Reads (.rdcsr i 0x0D) s (countWord p.code) := by
  subst hph
  exact (reads_pass_of_on hr hp hinst).1

/-- Settles O47: the table of R40 row by row. -/
theorem rdcsrReadsTheTable : Obligations.RdcsrReadsTheTable := by
  intro i s
  refine ⟨fun _ => rfl, fun _ => faults_rdcsr_of_reserved, fun _ => taskChecks_rdcsr, fun hr =>
    ⟨?hardware, fun hd n hn => ?unbound, fun d hd => ?driver⟩⟩
  case hardware =>
    refine ⟨reads_rdcsr_hw (r := .ris) rfl hr, reads_rdcsr_hw (r := .im) rfl hr, reads_rdcsr_hw (r := .mis) rfl hr,
      ?ctl, reads_rdcsr_hw (r := .rxflvl) rfl hr, reads_rdcsr_hw (r := .txflvl) rfl hr,
      fun hother => reads_pass_of_off hr (.inr hother), fun hidle => reads_pass_of_off hr (.inl hidle),
      fun hinst => ?inFlight, reads_rdcsr_hw (r := .fault) rfl hr⟩
    case ctl =>
      rw [← Uart.ctl_setWidth]
      exact reads_rdcsr_hw (r := .ctl) rfl hr
    case inFlight =>
      exact ⟨reads_passph nofun hr hinst, reads_passph nofun hr hinst, reads_passph nofun hr hinst,
        reads_passph nofun hr hinst, reads_passph nofun hr hinst, reads_passph nofun hr hinst,
        reads_passph nofun hr hinst, reads_passph nofun hr hinst, fun hph => (reads_pass_of_on hr hph hinst).2⟩
  case unbound => exact faults_rdcsr_of_unbound hr hd (by omega)
  case driver =>
    have row {n : Byte} {r : DrvCsr} (hc : csrOfNumber n = some (.drv r)) : Reads (.rdcsr i n) s (r.value d) :=
      reads_rdcsr_drv hc hr hd
    exact ⟨row (r := .cfg) rfl, row (r := .auxused) rfl, row (r := .auxavail) rfl, row (r := .rxbused) rfl,
      row (r := .rxbavail) rfl, row (r := .txbused) rfl, row (r := .txbavail) rfl, row (r := .stInts) rfl,
      row (r := .stRxints) rfl, row (r := .stTxints) rfl, row (r := .stRxbytes) rfl, row (r := .stTxbytes) rfl,
      row (r := .stRxovf) rfl, row (r := .stLinger) rfl⟩

end Sys2Proof.Machine
end

section
/-! PROOFS. The peripheral's events (45_peripheral_events.md). `RXTIMEOUT`, `RXLEVEL` and `TXLEVEL` have one shape,
`SignalsUnless`. `PeripheralOutcome` lists once what any of the five events can answer; that they touch only the
peripheral's side (R228), and nothing while `PEN = 0` (R220), is read off it. -/

namespace Sys2Proof.Machine

variable {s t : State} {x : Instr} {i j : InstId} {b : Byte} {q : List Byte} {u : Uart} {r : Result} {m : Mask}

/-! ## RXARRIVE (R221) -/

theorem exec_rxarrive (hn : i.toNat < s.params.numInst) :
    exec (.rxarrive i b) s =
      if ¬ (s.uart i).pen then s.ok
      else if (s.uart i).rxFifo.length < s.params.hwRxDepth then
        (s.setUart i { s.uart i with
          rxFifo := (s.uart i).rxFifo ++ [b]
          ris := if s.params.rxTrig ≤ (s.uart i).rxFifo.length + 1 then (s.uart i).ris ||| maskRx
                 else (s.uart i).ris }).ok
      else (s.setUart i { s.uart i with
        rxLost := (s.uart i).rxLost + 1, ris := (s.uart i).ris ||| maskOe }).ok :=
  State.onInst_has (State.hasInst_iff.2 hn)

theorem exec_rxarrive_of_room (hn : i.toNat < s.params.numInst) (hpen : (s.uart i).pen = true)
    (hroom : (s.uart i).rxFifo.length < s.params.hwRxDepth) :
    exec (.rxarrive i b) s = (s.setUart i { s.uart i with
      rxFifo := (s.uart i).rxFifo ++ [b]
      ris := if s.params.rxTrig ≤ (s.uart i).rxFifo.length + 1 then (s.uart i).ris ||| maskRx
             else (s.uart i).ris }).ok := by
  rw [exec_rxarrive hn, if_neg (not_not.2 hpen), if_pos hroom]

theorem does_rxarrive_of_full (hn : i.toNat < s.params.numInst) (hpen : (s.uart i).pen = true)
    (hfull : s.params.hwRxDepth ≤ (s.uart i).rxFifo.length) :
    Does (.rxarrive i b) s i { s.uart i with
      rxLost := (s.uart i).rxLost + 1, ris := (s.uart i).ris ||| maskOe } s.isr s.pass none :=
  does_of_exec_setUart (by rw [exec_rxarrive hn, if_neg (not_not.2 hpen), if_neg hfull.not_gt]; rfl)

/-- Settles O48: past the range check the peripheral is off, or has room, below the trigger or at it, or is full. -/
theorem rxarriveQueuesOrLosesByte : Obligations.RxarriveQueuesOrLosesByte := by
  intro i b s
  refine ⟨rfl, rangeCheck_of_exec_onInst rfl, fun hn => ⟨fun hpen => ?off, fun hpen =>
    ⟨fun hroom => ⟨fun hbelow => ?below, fun htrig => ?trigger⟩, does_rxarrive_of_full hn hpen⟩⟩⟩
  case off => exact (exec_rxarrive hn).trans (if_pos (ne_true_of_eq_false hpen))
  case below =>
    have hexec := exec_rxarrive_of_room (b := b) hn hpen hroom
    rw [if_neg hbelow.not_ge] at hexec
    exact does_of_exec_setUart hexec
  case trigger =>
    have hexec := exec_rxarrive_of_room (b := b) hn hpen hroom
    rw [if_pos htrig] at hexec
    exact does_of_exec_setUart hexec

/-! ## The events that only set a bit: RXTIMEOUT, RXLEVEL, TXLEVEL (R222, R223, R225) -/

/-- `x` at `s` checks the instance range; it holds on a disabled peripheral or if `c`, and else sets the bits `m` of
the status. -/
def SignalsUnless (x : Instr) (s : State) (m : Mask) (c : Prop) [Decidable c] : Prop :=
  exec x s = s.onInst x.inst (if ¬ (s.uart x.inst).pen ∨ c then s.hold
    else (s.setUart x.inst { s.uart x.inst with ris := (s.uart x.inst).ris ||| m }).ok)

theorem rxtimeout_signalsUnless (i : InstId) (s : State) :
    SignalsUnless (.rxtimeout i) s maskRt ((s.uart i).rxFifo.length = 0) := rfl

theorem rxlevel_signalsUnless (i : InstId) (s : State) :
    SignalsUnless (.rxlevel i) s maskRx ((s.uart i).rxFifo.length < s.params.rxTrig) := rfl

theorem txlevel_signalsUnless (i : InstId) (s : State) :
    SignalsUnless (.txlevel i) s maskTx (s.params.txTrig < (s.uart i).txFifo.length) := rfl

namespace SignalsUnless

variable {c : Prop} [Decidable c]

theorem holds (h : SignalsUnless x s m c) (hn : x.inst.toNat < s.params.numInst)
    (hc : (s.uart x.inst).pen = false ∨ c) : Holds x s :=
  h.trans ((State.onInst_has (State.hasInst_iff.2 hn)).trans (if_pos (hc.imp_left ne_true_of_eq_false)))

theorem does (h : SignalsUnless x s m c) (hn : x.inst.toNat < s.params.numInst) (hpen : (s.uart x.inst).pen = true)
    (hc : ¬ c) : Does x s x.inst { s.uart x.inst with ris := (s.uart x.inst).ris ||| m } s.isr s.pass none :=
  does_of_exec_setUart
    (h.trans ((State.onInst_has (State.hasInst_iff.2 hn)).trans (if_neg (not_or.2 ⟨not_not.2 hpen, hc⟩))))

end SignalsUnless

/-- Settles O49: each of the three events is `SignalsUnless` with its own bit and condition. -/
theorem statusEventsSetTheirBit : Obligations.StatusEventsSetTheirBit := fun i s =>
  ⟨⟨rfl, rangeCheck_of_exec_onInst rfl, fun hn =>
      ⟨fun hc => (rxtimeout_signalsUnless i s).holds hn (hc.imp_right List.length_eq_zero_iff.2),
        fun hpen hq => (rxtimeout_signalsUnless i s).does hn hpen (List.length_eq_zero_iff.not.2 hq)⟩⟩,
    ⟨rfl, rangeCheck_of_exec_onInst rfl, fun hn => ⟨(rxlevel_signalsUnless i s).holds hn,
      fun hpen htrig => (rxlevel_signalsUnless i s).does hn hpen htrig.not_gt⟩⟩,
    ⟨rfl, rangeCheck_of_exec_onInst rfl, fun hn => ⟨(txlevel_signalsUnless i s).holds hn,
      fun hpen htrig => (txlevel_signalsUnless i s).does hn hpen htrig.not_gt⟩⟩⟩

/-! ## TXSHIFT (R224) -/

theorem holds_txshift_of_nil (hn : i.toNat < s.params.numInst) (hq : (s.uart i).txFifo = []) :
    Holds (.txshift i) s :=
  (State.onInst_has (State.hasInst_iff.2 hn)).trans (by rw [hq]; rfl)

theorem exec_txshift_of_cons (hn : i.toNat < s.params.numInst) (hq : (s.uart i).txFifo = b :: q) :
    exec (.txshift i) s =
      if ¬ (s.uart i).pen then s.hold
      else (s.setUart i { s.uart i with
        txFifo := q
        txLine := (s.uart i).txLine ++ [b]
        ris := if q.length ≤ s.params.txTrig then (s.uart i).ris ||| maskTx else (s.uart i).ris }).okWith
          (b.setWidth 32) :=
  (State.onInst_has (State.hasInst_iff.2 hn)).trans (by rw [hq]; rfl)

theorem holds_txshift_of_disabled (hn : i.toNat < s.params.numInst) (hpen : (s.uart i).pen = false) :
    Holds (.txshift i) s := by
  cases hq : (s.uart i).txFifo with
  | nil => exact holds_txshift_of_nil hn hq
  | cons b q => exact (exec_txshift_of_cons hn hq).trans (if_pos (ne_true_of_eq_false hpen))

/-- Settles O50: past the range check there is nothing to send, or the oldest byte leaves, above the trigger or not. -/
theorem txshiftSendsOldestByte : Obligations.TxshiftSendsOldestByte := by
  intro i s
  refine ⟨rfl, rangeCheck_of_exec_onInst rfl, fun hn =>
    ⟨fun hc => hc.elim (holds_txshift_of_disabled hn) (holds_txshift_of_nil hn), fun b q hpen hq => ?_⟩⟩
  have hexec := exec_txshift_of_cons hn hq
  rw [if_neg (not_not.2 hpen)] at hexec
  refine ⟨fun habove => ?above, fun htrig => ?trigger⟩
  case above =>
    rw [if_neg habove.not_ge] at hexec
    exact does_of_exec_setUart hexec
  case trigger =>
    rw [if_pos htrig] at hexec
    exact does_of_exec_setUart hexec

/-! ## What an event can answer (R220, R226, R228) -/

/-- `v` is `u` but for the peripheral's side: the FIFOs, the status, and the observations of 10_state.md R42. -/
def Uart.DiffersOnPeripheralSide (u v : Uart) : Prop :=
  ∃ rx tx ris line lost,
    v = { u with rxFifo := rx, txFifo := tx, ris := ris, txLine := line, rxLost := lost }

theorem Uart.DiffersOnPeripheralSide.refl (u : Uart) : u.DiffersOnPeripheralSide u := ⟨_, _, _, _, _, rfl⟩

/-- What an event of instance `i` applied at `s` can answer: the fault of an instance that does not exist, `s` itself
with an outcome, or, on an enabled peripheral, `s` with that peripheral's side written. -/
inductive PeripheralOutcome (s : State) (i : InstId) : Result → Prop where
  | missing (hi : s.hasInst i = false) : PeripheralOutcome s i (s.raise .noInstance)
  | reports (o : Reply) : PeripheralOutcome s i (.next (s.setReply o))
  | writes {v : Uart} (o : Reply) (hpen : (s.uart i).pen = true) (hv : (s.uart i).DiffersOnPeripheralSide v) :
      PeripheralOutcome s i (.next ((s.setUart i v).setReply o))

namespace PeripheralOutcome

theorem ite {p : Prop} [Decidable p] {r₁ r₂ : Result} (h₁ : p → PeripheralOutcome s i r₁)
    (h₂ : ¬ p → PeripheralOutcome s i r₂) : PeripheralOutcome s i (if p then r₁ else r₂) := by
  by_cases hp : p
  · rw [if_pos hp]; exact h₁ hp
  · rw [if_neg hp]; exact h₂ hp

theorem onInst (h : PeripheralOutcome s i r) : PeripheralOutcome s i (s.onInst i r) := by
  cases hi : s.hasInst i with
  | false => rw [State.onInst_lacks hi]; exact missing hi
  | true => rwa [State.onInst_has hi]

/-! ### What an answer says of the next state -/

theorem sequencers (h : PeripheralOutcome s i r) (hr : r = .next t) : t.isr = s.isr ∧ t.pass = s.pass := by
  cases h with
  | missing => rw [State.raise_next hr]; exact ⟨rfl, rfl⟩
  | reports | writes => cases hr; exact ⟨rfl, rfl⟩

theorem uart (h : PeripheralOutcome s i r) (hr : r = .next t) (j : InstId) :
    (s.uart j).DiffersOnPeripheralSide (t.uart j) := by
  cases h with
  | missing => rw [State.raise_next hr]; exact .refl _
  | reports => cases hr; exact .refl _
  | writes _ _ hv =>
    cases hr
    by_cases hj : j = i
    · subst hj
      rwa [State.setReply_uart, State.uart_setUart_self]
    · rw [State.setReply_uart, State.uart_setUart_ne _ _ hj]
      exact .refl _

theorem eq_of_disabled (h : PeripheralOutcome s i r) (hr : r = .next t) (hi : s.hasInst i = true)
    (hpen : (s.uart i).pen = false) : t = { s with reply := t.reply } := by
  cases h with
  | missing hlacks => rw [hi] at hlacks; cases hlacks
  | reports => cases hr; rfl
  | writes _ hon => rw [hpen] at hon; cases hon

end PeripheralOutcome

theorem SignalsUnless.outcome {c : Prop} [Decidable c] (h : SignalsUnless x s m c) :
    PeripheralOutcome s x.inst (exec x s) := by
  rw [h]
  exact .onInst <| .ite (fun _ => .reports _) fun hon =>
    .writes _ (not_not.1 (not_or.1 hon).1) ⟨_, _, _, _, _, rfl⟩

theorem execRxarrive_outcome : PeripheralOutcome s i (execRxarrive i b s) :=
  .onInst <| .ite (fun _ => .reports _) fun hon => .ite
    (fun _ => .writes _ (not_not.1 hon) ⟨_, _, _, _, _, rfl⟩)
    (fun _ => .writes _ (not_not.1 hon) ⟨_, _, _, _, _, rfl⟩)

theorem execTxshift_outcome : PeripheralOutcome s i (execTxshift i s) :=
  .onInst <| by
    split
    · exact .reports _
    · exact .ite (fun _ => .reports _) fun hon => .writes _ (not_not.1 hon) ⟨_, _, _, _, _, rfl⟩

theorem exec_peripheralOutcome (hx : x.agent = .peripheral) (s : State) : PeripheralOutcome s x.inst (exec x s) := by
  cases x with
  | rxarrive => exact execRxarrive_outcome
  | rxtimeout i => exact (rxtimeout_signalsUnless i s).outcome
  | rxlevel i => exact (rxlevel_signalsUnless i s).outcome
  | txshift => exact execTxshift_outcome
  | txlevel i => exact (txlevel_signalsUnless i s).outcome
  | _ => cases hx

/-! ## No status bit falls (R226, R228) -/

theorem ClearsStatus.agent_ne (h : ClearsStatus s x m) : x.agent ≠ .peripheral := by
  cases h with
  | intclr | i7b | r4 | t2 => exact nofun

theorem ris_kept_of_peripheral (hx : x.agent = .peripheral) (h : exec x s = .next t) {k : Nat}
    (hk : (s.uart j).ris.getLsbD k = true) : (t.uart j).ris.getLsbD k = true := by
  by_contra hfall
  obtain rfl := (exec_writes h).inst_of_ne fun hu => hfall (hu ▸ hk)
  obtain ⟨m, hm, -⟩ := (exec_writes h).uart.ris.falls hk (eq_false_of_ne_true hfall)
  exact hm.agent_ne hx

/-- Settles O51: what an event can answer leaves the driver's side alone, and the words that clear a status bit are no
events. -/
theorem peripheralTouchesOnlyItsSide : Obligations.PeripheralTouchesOnlyItsSide := by
  intro x s t j hx h
  obtain ⟨hisr, hpass⟩ := (exec_peripheralOutcome hx s).sequencers h
  have hris : ∀ k, (s.uart j).ris.getLsbD k = true → (t.uart j).ris.getLsbD k = true :=
    fun _ => ris_kept_of_peripheral hx h
  obtain ⟨_, _, _, _, _, hu⟩ := (exec_peripheralOutcome hx s).uart h j
  refine ⟨hisr, hpass, ?_, ?_, ?_, ?_, ?_, hris⟩ <;> rw [hu]

/-! ## PEN (R220) -/

theorem UartStep.pen (h : UartStep s x u) (hne : u.pen ≠ (s.uart x.inst).pen) :
    (u.pen = true ∧ ∃ rxFc txFc l, x = .init x.inst rxFc txFc l) ∨ (u.pen = false ∧ x = .deinit x.inst) := by
  cases h with
  | init => exact .inl ⟨rfl, _, _, _, rfl⟩
  | deinit => exact .inr ⟨rfl, rfl⟩
  | _ => exact absurd rfl hne

/-- R200, R202: an `INIT` that does not answer 0 leaves its instance as it was. -/
theorem execInit_reply_of_changed {rxFc txFc : Bool} {l : BitVec 22} (h : execInit i rxFc txFc l s = .next t)
    (hne : t.uart i ≠ s.uart i) : t.reply = .ok (some 0) := by
  have hreport {o : Reply} (ht : t = s.setReply o) : False := hne (by rw [ht, State.setReply_uart])
  obtain ⟨-, ht⟩ | ⟨-, hk⟩ := State.inTask_next h
  · exact (hreport ht).elim
  · split_ifs at hk with hi hbound hflow halloc
    · exact absurd (by rw [State.raise_next hk]; rfl) hne
    · exact (hreport (State.okWith_next hk)).elim
    · rw [State.okWith_next hk, State.setReply_reply]
    · exact (hreport (State.okWith_next hk)).elim
    · exact (hreport (State.okWith_next hk)).elim

/-- Settles O52: an event on a disabled peripheral only reports; `PEN` is 0 at power-on; of the effects an operation can
have, only those of `INIT` and `DEINIT` write it. -/
theorem disabledPeripheralIsInert : Obligations.DisabledPeripheralIsInert := by
  refine ⟨fun x s t hx hn hpen h => ?inert, fun p i => ?powerOn, fun x s t j h hne => ?writers⟩
  case inert => exact (exec_peripheralOutcome hx s).eq_of_disabled h (State.hasInst_iff.2 hn) hpen
  case powerOn => rw [State.powerOn_uart]; rfl
  case writers =>
    have hchanged : t.uart j ≠ s.uart j := fun hu => hne (by rw [hu])
    obtain rfl := (exec_writes h).inst_of_ne hchanged
    obtain ⟨hset, rxFc, txFc, l, hx⟩ | ⟨hcleared, hx⟩ := (exec_writes h).uart.pen hne
    · have hinit : execInit x.inst rxFc txFc l s = .next t := by rwa [hx] at h
      exact .inl ⟨hset, execInit_reply_of_changed hinit hchanged, rxFc, txFc, l, hx⟩
    · exact .inr ⟨hcleared, hx⟩

end Sys2Proof.Machine
end

section
/-! PROOFS. Why a word holds or faults (00_scope.md R14; 60_exceptions.md R231, R233, R241). `HoldCause` and `FaultCause`
list the reasons once, each with the checks that come before it; `exec_ends` says that no operation holds or faults but
for one of them, and `FaultCause.faults` that each reason does raise its fault. -/

namespace Sys2Proof.Machine

/-! ## The reasons -/

/-- The words that need driver state (R231, row 2). -/
inductive NeedsDriver : Instr → Prop where
  | txput {i b} : NeedsDriver (.txput i b)
  | rxget {i} : NeedsDriver (.rxget i)
  | dispatch {i} : NeedsDriver (.dispatch i)
  | deinit {i} : NeedsDriver (.deinit i)
  | setrxen {i f} : NeedsDriver (.setrxen i f)
  | flush {i} : NeedsDriver (.flush i)
  | rdcsr {i n} (hn : 0x04 ≤ n.toNat ∧ n.toNat ≤ 0x0A ∨ 0x10 ≤ n.toNat ∧ n.toNat ≤ 0x16) : NeedsDriver (.rdcsr i n)

/-- The reasons to fault (R231), each behind the checks that R233 puts before it. -/
inductive FaultCause (s : State) : Instr → FaultCode → Prop where
  | reserved {i n} (hn : 0x16 < n.toNat) : FaultCause s (.rdcsr i n) .illegalWord
  | missing {x} (hwf : x.wf = true) (hinit : ∀ i rxFc txFc l, x ≠ .init i rxFc txFc l)
      (htask : x.isTask = true → s.isr.ph = .idle) (hi : s.hasInst x.inst = false) : FaultCause s x .noInstance
  | unbound {x} (hx : NeedsDriver x) (hr : TaskReady s x.inst) (hd : (s.uart x.inst).driver = none) :
      FaultCause s x .noInstance
  | bound {i rxFc txFc l} (hr : TaskReady s i) (hd : (s.uart i).driver ≠ none) :
      FaultCause s (.init i rxFc txFc l) .doubleInit
  | passInFlight {i} (hr : TaskReady s i) (hd : (s.uart i).driver ≠ none) (hpass : s.passOn i = true) :
      FaultCause s (.deinit i) .deinitDuringPass
  | rxEmpty {i} (hr : TaskReady s i) (hq : (s.uart i).rxFifo = []) : FaultCause s (.rdbyte i) .rxFifoUnderrun
  | txFull {i b} (hr : TaskReady s i) (hq : (s.uart i).txFifo.length = s.params.hwTxDepth) :
      FaultCause s (.wrbyte i b) .txFifoOverrun
  | race {i d} (hat : PassAt s .r1l i d) (hroom : 0 < d.rxb.avail) (hheld : 0 < d.aux.used)
      (him : (s.uart i).im &&& rxInts ≠ 0) : FaultCause s (.pstep i) .auxRace

/-- The reasons to hold: a handler in flight (R241); the lock (41_ring_buffer.md R131); another pass, or no request
(43_dispatch.md R161, R162); bytes to send (44_host_lifecycle.md R207); and, in `event`, whatever a word that is no
task-context word waits for (R233 (6)). -/
inductive HoldCause (s : State) : Instr → Prop where
  | handler {x} (hisr : s.isr.ph ≠ .idle) : HoldCause s x
  | txputLock {i b} (hpass : s.pass.ph ≠ .idle) : HoldCause s (.txput i b)
  | rxgetLock {i} (hpass : s.pass.ph ≠ .idle) : HoldCause s (.rxget i)
  | otherPass {i} (hpass : s.pass.ph ≠ .idle) (hinst : s.pass.inst ≠ i) : HoldCause s (.pstep i)
  | noRequest {i} (hpass : s.pass.ph = .idle) (hreq : (s.uart i).dispReq = false) : HoldCause s (.pstep i)
  | transmitting {i} (hq : (s.uart i).txFifo ≠ []) : HoldCause s (.flush i)
  | event {x} (hx : x.isTask = false) : HoldCause s x

/-- How the word `x` applied at `s` can end: ok with the port as it was, a hold or a fault for one of the reasons, or one
of the model's own stops (log 13). -/
inductive Ends (s : State) (x : Instr) : Result → Prop where
  | ok {u : State} (hport : u.port = s.port := by rfl) : Ends s x u.ok
  | okWith {u : State} {v : Word} (hport : u.port = s.port := by rfl) : Ends s x (u.okWith v)
  | hold (h : HoldCause s x) : Ends s x s.hold
  | raise {c : FaultCode} (h : FaultCause s x c) : Ends s x (s.raise c)
  | stop {f : Fault} : Ends s x (.fault f)

variable {s t : State} {x : Instr} {i : InstId} {k r : Result} {c : FaultCode}

namespace Ends

/-! ## What an end says of the next state -/

theorem port (h : Ends s x r) (hr : r = .next t) : t.port = s.port := by
  cases h with
  | ok hport => rw [State.ok_next hr]; exact hport
  | okWith hport => rw [State.okWith_next hr]; exact hport
  | hold => rw [State.hold_next hr]; rfl
  | raise => rw [State.raise_next hr]
  | stop => cases hr

theorem holdCause (h : Ends s x r) (hr : r = .next t) (ht : t.reply = .hold) : HoldCause s x := by
  cases h with
  | hold hcause => exact hcause
  | ok => rw [State.ok_next hr] at ht; cases ht
  | okWith => rw [State.okWith_next hr] at ht; cases ht
  | raise => rw [State.raise_next hr] at ht; cases ht
  | stop => cases hr

theorem faultCause (h : Ends s x r) (hr : r = .next t) (ht : t.reply = .fault c) :
    FaultCause s x c ∧ s.raise c = .next t := by
  cases h with
  | raise hcause =>
    obtain rfl := Reply.fault.inj ((congrArg State.reply (State.raise_next hr)).symm.trans ht)
    exact ⟨hcause, hr⟩
  | ok => rw [State.ok_next hr] at ht; cases ht
  | okWith => rw [State.okWith_next hr] at ht; cases ht
  | hold => rw [State.hold_next hr] at ht; cases ht
  | stop => cases hr

/-! ## The checks give their reasons (R233) -/

theorem ite {p : Prop} [Decidable p] {a b : Result} (ha : p → Ends s x a) (hb : ¬ p → Ends s x b) :
    Ends s x (if p then a else b) := by
  by_cases hp : p
  · rw [if_pos hp]; exact ha hp
  · rw [if_neg hp]; exact hb hp

theorem inTask (h : s.isr.ph = .idle → Ends s x k) : Ends s x (s.inTask k) :=
  .ite (fun hisr => .hold (.handler hisr)) fun hisr => h (not_not.1 hisr)

theorem onInst (hwf : x.wf = true) (hinit : ∀ i rxFc txFc l, x ≠ .init i rxFc txFc l)
    (htask : x.isTask = true → s.isr.ph = .idle) (h : i = x.inst) (hk : i.toNat < s.params.numInst → Ends s x k) :
    Ends s x (s.onInst i k) := by
  subst h
  exact .ite (fun hi => hk (State.hasInst_iff.1 hi)) fun hi =>
    .raise (.missing hwf hinit htask (eq_false_of_ne_true hi))

/-- A word of the interrupt sequencer or the peripheral checks the instance range alone. -/
theorem event (hk : Ends s x k) (hx : x.isTask = false := by rfl) (hwf : x.wf = true := by rfl)
    (hinit : ∀ i rxFc txFc l, x ≠ .init i rxFc txFc l := by nofun) (hi : i = x.inst := by rfl) :
    Ends s x (s.onInst i k) :=
  .onInst hwf hinit (fun htask => absurd (hx.symm.trans htask) Bool.false_ne_true) hi fun _ => hk

/-- A task-context word other than `INIT` checks the context, then the instance range. -/
theorem task (hk : TaskReady s i → Ends s x k) (hwf : x.wf = true := by rfl)
    (hinit : ∀ i rxFc txFc l, x ≠ .init i rxFc txFc l := by nofun) (hi : i = x.inst := by rfl) :
    Ends s x (s.inTask (s.onInst i k)) :=
  .inTask fun hisr => .onInst hwf hinit (fun _ => hisr) hi fun hn => hk ⟨hisr, hn⟩

theorem onBound {f : Driver → Result} (hx : NeedsDriver x) (hr : TaskReady s i)
    (h : ∀ d, (s.uart i).driver = some d → Ends s x (f d)) (hi : i = x.inst := by rfl) :
    Ends s x (s.onBound i f) := by
  subst hi
  cases hd : (s.uart x.inst).driver with
  | none => rw [State.onBound_none hd]; exact raise (.unbound hx hr hd)
  | some d => rw [State.onBound_some hd]; exact h d hd

theorem withLock (hlock : s.pass.ph ≠ .idle → HoldCause s x) (h : Ends s x k) : Ends s x (s.withLock k) :=
  .ite (fun hpass => .hold (hlock hpass)) fun _ => h

theorem needDriver {f : Driver → Result} (h : ∀ d, (s.uart i).driver = some d → Ends s x (f d)) :
    Ends s x (s.needDriver i f) := by
  cases hd : (s.uart i).driver with
  | none =>
    have hstop : s.needDriver i f = .fault .driverMissing := by simp [State.needDriver, hd]
    rw [hstop]
    exact stop
  | some d => rw [State.needDriver_some hd]; exact h d hd

end Ends

/-! ## The micro-operations: only R1L faults and none holds (42_interrupt_handler.md R140, 43_dispatch.md R164) -/

theorem enterHandler_ends : Ends s x (s.enterHandler i) := by
  unfold State.enterHandler
  split
  · exact .ok
  · exact .ok

theorem handlerI4L_ends : Ends s x (handlerI4L i s) :=
  .needDriver fun _ _ => by
    split
    · exact .ite (fun _ => .ok) fun _ => .ok
    · exact .ite (fun _ => .ok) fun _ => .ok

theorem handlerStep_ends (ph : IsrPh) : Ends s x (handlerStep ph i s) := by
  cases ph with
  | idle => exact enterHandler_ends
  | i2 => exact .needDriver fun _ _ => .ok
  | i3 | i4 | i5 => exact .ite (fun _ => .needDriver fun _ _ => .ok) fun _ => .ok
  | i4l => exact handlerI4L_ends
  | i6 => exact .ite (fun _ => .ok) fun _ => .ok
  | i7a | i7b => exact .ok

theorem passD0_ends : Ends s x (passD0 i s) := by
  unfold passD0
  split
  · exact .ok
  · exact .ok

theorem passR1L_ends (hr : TaskReady s i) (hinst : s.pass.inst = i) (hph : s.pass.ph = .r1l) :
    Ends s (.pstep i) (passR1L i s) :=
  .needDriver fun d hd => .ite (fun _ => .ok) fun hdue => .ite
    (fun him => by
      obtain ⟨hisr, hn⟩ := hr
      obtain ⟨hroom, hheld⟩ := Nat.lt_min.1 (Nat.pos_of_ne_zero hdue)
      exact .raise (.race ⟨hisr, hph, hinst, hn, hd⟩ hroom hheld ((anyBits_iff _ _).1 him)))
    fun _ => .ok

theorem passR2_ends : Ends s x (passR2 i s) :=
  .needDriver fun _ _ => by
    split
    · exact .ite (fun _ => .ok) fun _ => .ok
    · exact .ok

theorem passT1_ends : Ends s x (passT1 i s) :=
  .needDriver fun _ _ => .ite
    (fun _ => by
      split
      · exact .stop
      · exact .ok)
    fun _ => .ok

theorem passStep_ends {ph : PassPh} (hr : TaskReady s i) (hinst : s.pass.inst = i) (hph : s.pass.ph = ph) :
    Ends s (.pstep i) (passStep ph i s) := by
  cases ph with
  | idle => exact passD0_ends
  | r1 => exact .needDriver fun _ _ => .ite (fun _ => .ok) fun _ => .ok
  | r1l => exact passR1L_ends hr hinst hph
  | r2 => exact passR2_ends
  | r3 => exact .needDriver fun _ _ => .ite (fun _ => .ite (fun _ => .ok) fun _ => .ok) fun _ => .ok
  | r4 | t2 => exact .ok
  | t1 => exact passT1_ends
  | b1 => exact .needDriver fun _ _ => .ok

/-! ## Every operation -/

theorem execRdbyte_ends : Ends s (.rdbyte i) (execRdbyte i s) :=
  .task fun hr => by
    split
    · next hq => exact .raise (.rxEmpty hr hq)
    · exact .okWith

theorem execRxget_ends : Ends s (.rxget i) (execRxget i s) :=
  .task fun hr => .onBound .rxget hr fun _ _ => .withLock .rxgetLock <| by
    split
    · exact .okWith
    · exact .okWith

theorem execPstep_ends : Ends s (.pstep i) (execPstep i s) :=
  .task fun hr => .ite
    (fun hpass => .ite (fun _ => passD0_ends) fun hreq => .hold (.noRequest hpass (eq_false_of_ne_true hreq)))
    fun hpass => .ite (fun hinst => .hold (.otherPass hpass hinst)) fun hinst => passStep_ends hr (not_not.1 hinst) rfl

theorem execInit_ends {rxFc txFc : Bool} {l : BitVec 22} :
    Ends s (.init i rxFc txFc l) (execInit i rxFc txFc l s) :=
  .inTask fun hisr => .ite (fun _ => .okWith) fun hi => .ite
    (fun hb => .raise (.bound ⟨hisr, State.hasInst_iff.1 (not_not.1 hi)⟩ (Option.isSome_iff_ne_none.1 hb)))
    fun _ => .ite (fun _ => .okWith) fun _ => .ite (fun _ => .okWith) fun _ => .okWith

theorem execDeinit_ends : Ends s (.deinit i) (execDeinit i s) :=
  .task fun hr => .onBound .deinit hr fun _ hd =>
    .ite (fun hpass => .raise (.passInFlight hr (Option.ne_none_iff_exists'.2 ⟨_, hd⟩) hpass)) fun _ => .ok

theorem execRdcsr_ends {n : Byte} : Ends s (.rdcsr i n) (exec (.rdcsr i n) s) := by
  obtain ⟨-, hn⟩ | ⟨r, hc, hn⟩ | ⟨r, hc, hn⟩ := csrOfNumber_cases n
  · have hexec : exec (.rdcsr i n) s = s.raise .illegalWord := faults_rdcsr_of_reserved hn
    rw [hexec]
    exact .raise (.reserved hn)
  · have hwf : Instr.wf (.rdcsr i n) = true := decide_eq_true (by omega)
    rw [rdcsr_behindTaskChecks hc]
    exact .task (fun _ => .okWith) hwf
  · have hwf : Instr.wf (.rdcsr i n) = true := decide_eq_true (by omega)
    rw [rdcsr_behindTaskChecks hc]
    exact .task (fun hr => .onBound (.rdcsr hn) hr fun _ _ => .okWith) hwf

theorem execTxshift_ends : Ends s (.txshift i) (execTxshift i s) :=
  .event <| by
    split
    · exact .hold (.event rfl)
    · exact .ite (fun _ => .hold (.event rfl)) fun _ => .okWith

/-- No operation holds or faults but for one of the reasons, and none writes the port. -/
theorem exec_ends (x : Instr) (s : State) : Ends s x (exec x s) := by
  cases x with
  | bavail | savail | intstat | busy => exact .task fun _ => .okWith
  | rdbyte => exact execRdbyte_ends
  | wrbyte => exact .task fun hr => .ite (fun hq => .raise (.txFull hr hq)) fun _ => .ok
  | inten | intdis | intclr => exact .task fun _ => .ok
  | txput => exact .task fun hr => .onBound .txput hr fun _ _ => .withLock .txputLock .okWith
  | rxget => exact execRxget_ends
  | irq => exact .event <| .ite (fun _ => .hold (.event rfl)) fun _ => enterHandler_ends
  | istep =>
    exact .event <| .ite (fun _ => .ite (fun _ => enterHandler_ends) fun _ => .hold (.event rfl))
      fun _ => .ite (fun _ => .hold (.event rfl)) fun _ => handlerStep_ends _
  | dispatch => exact .task fun hr => .onBound .dispatch hr fun _ _ => .ok
  | pstep => exact execPstep_ends
  | init => exact execInit_ends
  | deinit => exact execDeinit_ends
  | setrxen => exact .task fun hr => .onBound .setrxen hr fun _ _ => .ok
  | flush =>
    exact .task fun hr => .onBound .flush hr fun _ _ =>
      .ite (fun hq => .hold (.transmitting (List.length_pos_iff.1 hq))) fun _ => .ok
  | rdcsr => exact execRdcsr_ends
  | rxarrive => exact .event <| .ite (fun _ => .ok) fun _ => .ite (fun _ => .ok) fun _ => .ok
  | rxtimeout | rxlevel | txlevel => exact .event <| .ite (fun _ => .hold (.event rfl)) fun _ => .ok
  | txshift => exact execTxshift_ends

theorem exec_port (h : exec x s = .next t) : t.port = s.port := (exec_ends x s).port h

/-- Settles O57: an operation writes no instance but its own and no configuration, and ends with the port as it was. -/
theorem instancesAreIsolated : Obligations.InstancesAreIsolated := fun _ _ _ j h hj =>
  ⟨(exec_writes h).others j hj, (exec_writes h).params, exec_port h⟩

/-! ## The reasons are enough: each raises its fault (R232) -/

theorem NeedsDriver.boundChecks (hx : NeedsDriver x) : BoundChecks x s := by
  cases hx with
  | txput | rxget | dispatch | deinit | setrxen | flush => exact BehindTaskChecks.boundChecks rfl
  | rdcsr hn =>
    obtain ⟨r, hc⟩ := csrOfNumber_of_driver hn
    exact BehindTaskChecks.boundChecks (rdcsr_behindTaskChecks hc)

theorem taskChecks_of_isTask (hx : x.isTask = true) (hwf : x.wf = true)
    (hinit : ∀ i rxFc txFc l, x ≠ .init i rxFc txFc l) : TaskChecks x s := by
  cases x with
  | irq | istep | rxarrive | rxtimeout | rxlevel | txshift | txlevel => cases hx
  | init => exact absurd rfl (hinit _ _ _ _)
  | rdcsr => exact taskChecks_rdcsr (of_decide_eq_true hwf)
  | _ => exact BehindTaskChecks.taskChecks rfl

theorem exec_onInst (hx : x.isTask = false) (s : State) : ∃ k, exec x s = s.onInst x.inst k := by
  cases x with
  | irq | istep | rxarrive | rxtimeout | rxlevel | txshift | txlevel => exact ⟨_, rfl⟩
  | _ => cases hx

theorem faults_of_missing (hwf : x.wf = true) (hinit : ∀ i rxFc txFc l, x ≠ .init i rxFc txFc l)
    (htask : x.isTask = true → s.isr.ph = .idle) (hi : s.hasInst x.inst = false) : Faults x s .noInstance := by
  cases hx : x.isTask with
  | true =>
    obtain ⟨-, hmissing⟩ := taskChecks_of_isTask (s := s) hx hwf hinit
    exact hmissing (htask hx) (not_lt.1 (State.hasInst_iff.not.1 (ne_true_of_eq_false hi)))
  | false =>
    obtain ⟨k, hexec⟩ := exec_onInst hx s
    exact hexec.trans (State.onInst_lacks hi)

theorem FaultCause.faults (h : FaultCause s x c) : Faults x s c := by
  cases h with
  | reserved hn => exact faults_rdcsr_of_reserved hn
  | missing hwf hinit htask hi => exact faults_of_missing hwf hinit htask hi
  | unbound hx hr hd =>
    obtain ⟨-, hunbound⟩ := hx.boundChecks (s := s)
    exact hunbound hr hd
  | bound hr hd => exact faults_init_of_bound hr hd
  | passInFlight hr hd hpass => exact (exec_deinit hr hd).trans (if_pos hpass)
  | rxEmpty hr hq => exact exec_rdbyte_of_nil hr hq
  | txFull hr hq => exact (exec_wrbyte hr).trans (if_pos hq)
  | race hat hroom hheld him => exact hat.faults_r1l hroom hheld him

/-- No reason to fault looks at `FAULT` or at the reply. -/
theorem FaultCause.after (h : FaultCause s x c) (f : Word) (o : Reply) :
    FaultCause { s with fault := f, reply := o } x c := by
  cases h with
  | reserved hn => exact .reserved hn
  | missing hwf hinit htask hi => exact .missing hwf hinit htask hi
  | unbound hx hr hd => exact .unbound hx hr hd
  | bound hr hd => exact .bound hr hd
  | passInFlight hr hd hpass => exact .passInFlight hr hd hpass
  | rxEmpty hr hq => exact .rxEmpty hr hq
  | txFull hr hq => exact .txFull hr hq
  | race hat hroom hheld him => exact .race hat hroom hheld him

/-- Settles O12: the reason for the fault still stands in the state it leaves, and raises it again. -/
theorem faultingWordChangesOnlyFault : Obligations.FaultingWordChangesOnlyFault := by
  intro x s t c h hr
  obtain ⟨hcause, hraise⟩ := (exec_ends x s).faultCause h hr
  obtain rfl := State.raise_next hraise
  exact ⟨rfl, _, (hcause.after _ _).faults, rfl⟩

/-! ## Each fault has its words and its condition (R231) -/

theorem NeedsDriver.word_cases (hx : NeedsDriver x) :
    (∃ b, x = .txput x.inst b) ∨ x = .rxget x.inst ∨ x = .dispatch x.inst ∨ x = .deinit x.inst ∨
      (∃ f, x = .setrxen x.inst f) ∨ x = .flush x.inst ∨ ∃ n, x = .rdcsr x.inst n ∧
        (n.toNat = 4 ∨ (5 ≤ n.toNat ∧ n.toNat ≤ 0x0A) ∨ (0x10 ≤ n.toNat ∧ n.toNat ≤ 0x16)) := by
  cases hx with
  | txput => exact .inl ⟨_, rfl⟩
  | rxget => exact .inr (.inl rfl)
  | dispatch => exact .inr (.inr (.inl rfl))
  | deinit => exact .inr (.inr (.inr (.inl rfl)))
  | setrxen => exact .inr (.inr (.inr (.inr (.inl ⟨_, rfl⟩))))
  | flush => exact .inr (.inr (.inr (.inr (.inr (.inl rfl)))))
  | rdcsr hn => exact .inr (.inr (.inr (.inr (.inr (.inr ⟨_, rfl, by omega⟩)))))

theorem NeedsDriver.ne_init (hx : NeedsDriver x) : ∀ i rxFc txFc l, x ≠ .init i rxFc txFc l := by
  cases hx with
  | txput | rxget | dispatch | deinit | setrxen | flush | rdcsr => exact nofun

/-- Settles O15: each reason to fault names the word and the condition of its row. -/
theorem faultCodesAndConditions : Obligations.FaultCodesAndConditions := by
  refine ⟨⟨rfl, rfl, rfl, rfl, rfl, rfl, rfl⟩, fun x s t h => ?_⟩
  have cause {c : FaultCode} (hr : t.reply = .fault c) : FaultCause s x c := ((exec_ends x s).faultCause h hr).1
  refine ⟨fun hr => ?illegalWord, fun hr => ?noInstance, fun hr => ?doubleInit, fun hr => ?deinitDuringPass,
    fun hr => ?rxFifoUnderrun, fun hr => ?txFifoOverrun, fun hr => ?auxRace⟩
  case illegalWord =>
    cases cause hr with
    | reserved hn => exact decide_eq_false (Nat.not_le.2 hn)
  case noInstance =>
    cases cause hr with
    | missing _ hinit _ hi =>
      exact ⟨hinit _, .inl (not_lt.1 (State.hasInst_iff.not.1 (ne_true_of_eq_false hi)))⟩
    | unbound hx _ hd => exact ⟨hx.ne_init _, .inr ⟨hd, hx.word_cases⟩⟩
  case doubleInit =>
    cases cause hr with
    | bound _ hd => exact ⟨_, _, _, _, rfl, hd⟩
  case deinitDuringPass =>
    cases cause hr with
    | passInFlight _ _ hpass => exact ⟨_, rfl, State.passOn_iff.1 hpass⟩
  case rxFifoUnderrun =>
    cases cause hr with
    | rxEmpty _ hq => exact ⟨_, rfl, hq⟩
  case txFifoOverrun =>
    cases cause hr with
    | txFull _ hq => exact ⟨_, _, rfl, hq⟩
  case auxRace =>
    cases cause hr with
    | race hat hroom hheld him => exact ⟨_, _, rfl, hat.phase, hat.driver, Nat.lt_min.2 ⟨hroom, hheld⟩, him⟩

end Sys2Proof.Machine
end

section
/-! PROOFS. Interrupt context (60_exceptions.md R241). A task-context word checks the context before anything else; an
event of the peripheral answers the same whatever the interrupt sequencer holds, which `CommutesWithIsr` says of its
answers. -/

namespace Sys2Proof.Machine

variable {s u : State} {x : Instr} {i : InstId} {k k' r r' : Result} {y : Isr}

theorem isTask_iff : x.isTask = true ↔ x.agent = .host ∨ x.agent = .dispatch := by
  simp only [Instr.isTask, Bool.or_eq_true, beq_iff_eq]

theorem holds_of_handler (hx : x.isTask = true) (hwf : x.wf = true) (hisr : s.isr.ph ≠ .idle) : Holds x s := by
  cases x with
  | init => exact holds_init hisr
  | _ =>
    obtain ⟨hbusy, -⟩ := taskChecks_of_isTask (s := s) hx hwf nofun
    exact hbusy hisr

/-- The reasons of a task-context word that are left when no handler is in flight. -/
theorem HoldCause.task_cases (h : HoldCause s x) (hx : x.isTask = true) (hisr : s.isr.ph = .idle) :
    (s.pass.ph ≠ .idle ∧ ((∃ b, x = .txput x.inst b) ∨ x = .rxget x.inst)) ∨
      (s.pass.ph ≠ .idle ∧ s.pass.inst ≠ x.inst ∧ x = .pstep x.inst) ∨
      (s.pass.ph = .idle ∧ (s.uart x.inst).dispReq = false ∧ x = .pstep x.inst) ∨
      ((s.uart x.inst).txFifo ≠ [] ∧ x = .flush x.inst) := by
  cases h with
  | handler hbusy => exact absurd hisr hbusy
  | txputLock hpass => exact .inl ⟨hpass, .inl ⟨_, rfl⟩⟩
  | rxgetLock hpass => exact .inl ⟨hpass, .inr rfl⟩
  | otherPass hpass hinst => exact .inr (.inl ⟨hpass, hinst, rfl⟩)
  | noRequest hpass hreq => exact .inr (.inr (.inl ⟨hpass, hreq, rfl⟩))
  | transmitting hq => exact .inr (.inr (.inr ⟨hq, rfl⟩))
  | event hevent => exact absurd (hevent.symm.trans hx) Bool.false_ne_true

/-! ## The peripheral does not look at the interrupt sequencer -/

/-- `r'` is `r` with the interrupt sequencer `y` in the next state. -/
def CommutesWithIsr (y : Isr) (r r' : Result) : Prop := ∀ t, r = .next t → r' = .next (t.setIsr y)

namespace CommutesWithIsr

theorem ok : CommutesWithIsr y u.ok (u.setIsr y).ok := fun _ ht => by rw [State.ok_next ht]; rfl

theorem okWith {v : Word} : CommutesWithIsr y (u.okWith v) ((u.setIsr y).okWith v) :=
  fun _ ht => by rw [State.okWith_next ht]; rfl

theorem hold : CommutesWithIsr y u.hold (u.setIsr y).hold := fun _ ht => by rw [State.hold_next ht]; rfl

theorem raise {c : FaultCode} : CommutesWithIsr y (u.raise c) ((u.setIsr y).raise c) :=
  fun _ ht => by rw [State.raise_next ht]; rfl

theorem ite {p : Prop} [Decidable p] (h : CommutesWithIsr y r r') (hk : CommutesWithIsr y k k') :
    CommutesWithIsr y (if p then r else k) (if p then r' else k') := by
  by_cases hp : p
  · rwa [if_pos hp, if_pos hp]
  · rwa [if_neg hp, if_neg hp]

theorem onInst (h : CommutesWithIsr y k k') :
    CommutesWithIsr y (s.onInst i k) ((s.setIsr y).onInst i k') := .ite h raise

end CommutesWithIsr

theorem execTxshift_commutesWithIsr : CommutesWithIsr y (execTxshift i s) (execTxshift i (s.setIsr y)) :=
  .onInst <| by
    simp only [State.setIsr_uart]
    split
    · exact .hold
    · exact .ite .hold .okWith

theorem exec_commutesWithIsr (hx : x.agent = .peripheral) (s : State) (y : Isr) :
    CommutesWithIsr y (exec x s) (exec x (s.setIsr y)) := by
  cases x with
  | rxarrive => exact .onInst <| .ite .ok <| .ite .ok .ok
  | rxtimeout | rxlevel | txlevel => exact .onInst <| .ite .hold .ok
  | txshift => exact execTxshift_commutesWithIsr
  | _ => cases hx

/-- Settles O16: the first check of a task-context word, the reasons to hold that remain at `IDLE`, the events, and the
words that do not decode. -/
theorem taskWordsHoldDuringHandler : Obligations.TaskWordsHoldDuringHandler :=
  ⟨fun _ _ hwf hx hisr => holds_of_handler (isTask_iff.2 hx) hwf hisr,
    fun x s _ hx hisr h hr => ((exec_ends x s).holdCause h hr).task_cases (isTask_iff.2 hx) hisr,
    fun _ s t y hx h => exec_commutesWithIsr hx s y t h,
    fun _ _ _ hport _ hp =>
      ⟨_, step_of_not_legalWord hport (mt exists_decode_eq_ok_iff_legalWord.2 (not_exists.2 hp)), rfl⟩⟩

end Sys2Proof.Machine
end

section
/-! PROOFS. The power-on state (70_reset_and_hazards.md R260; 10_state.md R46). Every UART is unbound, disabled and
quiet and both sequencers are idle, so a word with work to do lacks a driver, a request or an enabled peripheral. -/

namespace Sys2Proof.Machine

variable {p : Params} {x : Instr} {i : InstId} {b : Byte}

/-- Settles O6: there is no word to take. -/
theorem emptyPortStepIdles : Obligations.EmptyPortStepIdles := fun _ => step_of_port_nil

theorem powerOn_taskReady (hn : i.toNat < p.numInst) : TaskReady (State.powerOn p) i := ⟨rfl, hn⟩

/-- No instance is bound, so a word that needs driver state faults. -/
theorem NeedsDriver.faults_powerOn (hx : NeedsDriver x) (hn : x.inst.toNat < p.numInst) :
    Faults x (State.powerOn p) .noInstance :=
  (FaultCause.unbound hx (powerOn_taskReady hn) (by rw [State.powerOn_uart]; rfl)).faults

/-- No status bit and no mask bit is set, so no request line is asserted. -/
theorem holds_istep_powerOn (hn : i.toNat < p.numInst) : Holds (.istep i) (State.powerOn p) := by
  have hquiet : ¬ ((State.powerOn p).uart i).requesting = true := by rw [State.powerOn_uart]; decide
  exact (exec_istep hn).trans ((if_pos rfl).trans (if_neg hquiet))

theorem holds_pstep_powerOn (hn : i.toNat < p.numInst) : Holds (.pstep i) (State.powerOn p) :=
  holds_pstep_of_no_request (powerOn_taskReady hn) rfl (by rw [State.powerOn_uart]; rfl)

theorem powerOn_pen (p : Params) (i : InstId) : ((State.powerOn p).uart i).pen = false := by
  rw [State.powerOn_uart]; rfl

theorem exec_irq_powerOn (hn : i.toNat < p.numInst) : exec (.irq i) (State.powerOn p) = (State.powerOn p).ok :=
  (exec_irq_of_idle (powerOn_taskReady hn)).trans (State.enterHandler_unbound (by rw [State.powerOn_uart]; rfl))

/-- A byte that arrives is discarded. -/
theorem exec_rxarrive_powerOn (hn : i.toNat < p.numInst) :
    exec (.rxarrive i b) (State.powerOn p) = (State.powerOn p).ok :=
  (exec_rxarrive hn).trans (if_pos (ne_true_of_eq_false (powerOn_pen p i)))

/-- Settles O8: the values are those written in `State.powerOn`; each word has its lemma above, or that of its disabled
peripheral. -/
theorem powerOnState : Obligations.PowerOnState := by
  intro p
  refine ⟨rfl, rfl, rfl, fun i => ?values, fun i x b f hn => ⟨?faults, ?holds, fun n hreg => ?rdcsr, ?ok⟩⟩
  case values =>
    rw [State.powerOn_uart]
    exact ⟨rfl, rfl, rfl, rfl, rfl, rfl, rfl, rfl, rfl, rfl⟩
  case faults =>
    rintro (rfl | rfl | rfl | rfl | rfl | rfl)
    · exact NeedsDriver.txput.faults_powerOn hn
    · exact NeedsDriver.rxget.faults_powerOn hn
    · exact NeedsDriver.dispatch.faults_powerOn hn
    · exact NeedsDriver.deinit.faults_powerOn hn
    · exact NeedsDriver.setrxen.faults_powerOn hn
    · exact NeedsDriver.flush.faults_powerOn hn
  case holds =>
    have hpen := powerOn_pen p i
    rintro (rfl | rfl | rfl | rfl | rfl | rfl)
    · exact holds_istep_powerOn hn
    · exact holds_pstep_powerOn hn
    · exact (rxtimeout_signalsUnless i _).holds hn (.inl hpen)
    · exact (rxlevel_signalsUnless i _).holds hn (.inl hpen)
    · exact holds_txshift_of_disabled hn hpen
    · exact (txlevel_signalsUnless i _).holds hn (.inl hpen)
  case rdcsr => exact (NeedsDriver.rdcsr (by omega)).faults_powerOn hn
  case ok =>
    rintro (rfl | rfl)
    · exact exec_irq_powerOn hn
    · exact exec_rxarrive_powerOn hn

end Sys2Proof.Machine
end

section
/-! PROOFS. The ordering hazard (70_reset_and_hazards.md R272, 90_conflicts.md C1). The states of the run P6 are
written out and each leg of the run is evaluated to the next of them; that they meet the invariant, and what `RXGET`
returns in the end, follow from the rules. -/

namespace Sys2Proof.Machine

variable {s t : State} {i : InstId} {b : Byte} {bs : List Byte}

/-! ## Runs keep the invariant -/

theorem execAll_keeps_inv {xs : List Instr} (hs : s.Inv) (h : execAll xs s = .next t) : t.Inv := by
  induction xs generalizing s with
  | nil => cases h; exact hs
  | cons x xs ih =>
    rw [execAll] at h
    split at h
    · next w hw => exact ih (exec_keeps_inv hs hw) h
    · cases h
    · cases h

theorem passRun_keeps_inv {n : Nat} (hs : s.Inv) (h : passRun i n s = .next t) : t.Inv := by
  induction n generalizing s with
  | zero => cases h; exact hs
  | succ n ih =>
    rw [passRun] at h
    split at h
    · next w hw =>
      have hinv := exec_keeps_inv hs hw
      split at h
      · cases h; exact hinv
      · exact ih hinv h
    · cases h
    · cases h

theorem runKick_keeps_inv (hs : s.Inv) (h : runKick i s = .next t) : t.Inv := by
  rw [runKick] at h
  split at h
  · next w hw => exact passRun_keeps_inv (exec_keeps_inv hs hw) h
  · cases h
  · cases h

theorem runBoot_keeps_inv (hs : s.Inv) (h : runBoot i s = .next t) : t.Inv := by
  rw [runBoot] at h
  split at h
  · next w hw => exact runKick_keeps_inv (execAll_keeps_inv hs hw) h
  · cases h
  · cases h

/-! ## RXGET returns the bytes of RXB in order (41_ring_buffer.md R127) -/

/-- In task context, with the lock free, `RXB` of instance `i` holds the bytes `bs`. -/
structure ReadyToGive (s : State) (i : InstId) (bs : List Byte) : Prop where
  ready : TaskReady s i
  lockFree : s.pass.ph = .idle
  holds : ∃ d, (s.uart i).driver = some d ∧ d.rxb.Wf s.params.rxCap ∧ d.rxb.contents = bs

theorem ReadyToGive.rxget (h : ReadyToGive s i (b :: bs)) :
    ∃ t, exec (.rxget i) s = .next t ∧ t.reply = .ok (some (0x100 ||| b.setWidth 32)) ∧ ReadyToGive t i bs := by
  obtain ⟨⟨hisr, hn⟩, hlock, d, hd, hwf, hcontents⟩ := h
  obtain ⟨-, -, hgets⟩ := rxgetTakesFromMainBuffer i s
  obtain ⟨-, -, hbyte⟩ := hgets d ⟨hisr, hn⟩ hd hwf
  obtain ⟨r, hr, -, -, hleft, t, ht, hreply, huart, hisr', hpass, hframe⟩ := hbyte b bs hlock hcontents
  have hparams := hframe.params
  refine ⟨t, ht, hreply, ⟨hisr'.symm ▸ hisr, hparams.symm ▸ hn⟩, hpass.symm ▸ hlock,
    { d with rxb := r }, by rw [huart], hparams.symm ▸ hr, hleft⟩

/-! ## The states of P6 -/

theorem Ring.fresh_appendN_contents {cap : Nat} (draw : Nat) (hc : 0 < cap) (hbs : bs.length ≤ cap) :
    ((Ring.fresh cap draw).appendN bs).1.contents = bs := by
  obtain ⟨hwf, hempty⟩ := Ring.fresh_wf hc draw
  obtain ⟨-, -, -, hcontents⟩ := Ring.appendN_contents (bs := bs) hwf
  have hroom : (Ring.fresh cap draw).avail = cap := by
    have hspace := hwf.used_add_avail
    rwa [← Ring.contents_length, hempty, List.length_nil, Nat.zero_add] at hspace
  rw [hcontents, hempty, hroom, List.take_of_length_le hbs, List.nil_append]

/-- `AUX` of instance 0 in TC1 after the handler has put `bs` into it. -/
def p6Aux (bs : List Byte) : Ring := ((Ring.fresh Params.tc1.auxCap 0).appendN bs).1

/-- `RXB` of instance 0 in TC1 after the passes have put `bs` into it. -/
def p6Rxb (bs : List Byte) : Ring := ((Ring.fresh Params.tc1.rxCap 1).appendN bs).1

theorem p6Aux_contents (hbs : bs.length ≤ 4) : (p6Aux bs).contents = bs :=
  Ring.fresh_appendN_contents 0 (by decide) hbs

theorem p6Rxb_contents (hbs : bs.length ≤ 8) : (p6Rxb bs).contents = bs :=
  Ring.fresh_appendN_contents 1 (by decide) hbs

/-- Instance 0 as BOOT leaves it, but for what it has received, a request, and its counts: `ints` interrupts, all of them
receive interrupts, and `rxBytes` bytes. -/
def p6Uart (rxb aux : Ring) (rxFifo : List Byte) (dispReq : Bool) (ints rxBytes : Word) : Uart :=
  { Uart.powerOn with
    rxFifo := rxFifo
    im := 0b1011
    pen := true
    dispReq := dispReq
    driver := some { Driver.fresh Params.tc1 { rxFc := false, txFc := false, lingerUs := 0 } 0 with
      rxEnabled := true
      rxb := rxb
      aux := aux
      stats := { Stats.zero with ints := ints, rxInts := ints, rxBytes := rxBytes } } }

/-- TC1 after an ok word, with instance 0 and the sequencers as given. -/
def p6State (u : Uart) (isr : Isr) (pass : Pass) (draws : Nat) : State :=
  { State.powerOn Params.tc1 with
    uarts := #v[u, Uart.powerOn, Uart.powerOn, Uart.powerOn]
    isr := isr
    pass := pass
    reply := .ok none
    draws := draws }

/-- After BOOT. -/
def p6Booted : State :=
  p6State (p6Uart (p6Rxb []) (p6Aux []) [] false 0 0) (State.powerOn Params.tc1).isr (idlePass 3) 4

/-- A pass at `R1` with `AUX` empty and one byte in the FIFO. -/
def p6AtR1 : State :=
  p6State (p6Uart (p6Rxb []) (p6Aux []) [0x41] false 0 0) (State.powerOn Params.tc1).isr
    { ph := .r1, inst := 0, recd := false, lingerLeft := 0 } 4

/-- The same pass at `R2`: it has moved 41, the handler has put 42 and 43 into `AUX`, and 44 is in the FIFO. -/
def p6Due : State :=
  p6State (p6Uart (p6Rxb [0x41]) (p6Aux [0x42, 0x43]) [0x44] true 1 1) (idleIsr 4)
    { ph := .r2, inst := 0, recd := true, lingerLeft := 0 } 6

/-- 44 has gone past the two bytes in `AUX`. -/
def p6Overtaken : State :=
  p6State (p6Uart (p6Rxb [0x41, 0x44]) (p6Aux [0x42, 0x43]) [] true 1 2) (idleIsr 4)
    { ph := .r2, inst := 0, recd := true, lingerLeft := 0 } 6

/-- After the pass and the one that the handler requested. -/
def p6Final : State :=
  p6State (p6Uart (p6Rxb [0x41, 0x44, 0x42, 0x43]) ((p6Aux [0x42, 0x43]).consume 2) [] false 1 4) (idleIsr 4)
    (idlePass 7) 8

/-! ## The legs of P6 -/

theorem p6_boot : runBoot 0 { State.powerOn Params.tc1 with allocOk := true } = .next p6Booted := by rfl

theorem p6_to_r1 : execAll [.rxarrive 0 0x41, .dispatch 0, .pstep 0] p6Booted = .next p6AtR1 := by rfl

theorem p6_to_due :
    execAll ([.pstep 0, .pstep 0, .rxarrive 0 0x42, .rxarrive 0 0x43] ++ List.replicate 11 (.istep 0) ++
      [.rxarrive 0 0x44]) p6AtR1 = .next p6Due := by rfl

theorem p6_overtakes : exec (.pstep 0) p6Due = .next p6Overtaken := by rfl

theorem p6_to_end : execAll (List.replicate 16 (.pstep 0)) p6Overtaken = .next p6Final := by rfl

/-! ## What P6 shows -/

theorem p6State_received {rxb aux rxFifo : List Byte} {dispReq : Bool} {ints rxBytes : Word} {x : Isr}
    {y : Pass} {n : Nat} (hrxb : rxb.length ≤ 8) (haux : aux.length ≤ 4) :
    ((p6State (p6Uart (p6Rxb rxb) (p6Aux aux) rxFifo dispReq ints rxBytes) x y n).uart 0).received =
      rxb ++ aux ++ rxFifo := by
  have hreceived : ((p6State (p6Uart (p6Rxb rxb) (p6Aux aux) rxFifo dispReq ints rxBytes) x y n).uart 0).received =
      (p6Rxb rxb).contents ++ (p6Aux aux).contents ++ rxFifo := rfl
  rw [hreceived, p6Rxb_contents hrxb, p6Aux_contents haux]

theorem p6Booted_inv : p6Booted.Inv := runBoot_keeps_inv (powerOn_inv (p := Params.tc1) (by decide)) p6_boot

theorem p6Due_inv : p6Due.Inv := execAll_keeps_inv (execAll_keeps_inv p6Booted_inv p6_to_r1) p6_to_due

theorem p6Final_inv : p6Final.Inv := execAll_keeps_inv (exec_keeps_inv p6Due_inv p6_overtakes) p6_to_end

theorem p6Final_contents : (p6Rxb [0x41, 0x44, 0x42, 0x43]).contents = [0x41, 0x44, 0x42, 0x43] :=
  p6Rxb_contents (by decide)

theorem p6Final_readyToGive : ReadyToGive p6Final 0 [0x41, 0x44, 0x42, 0x43] where
  ready := ⟨rfl, by decide⟩
  lockFree := rfl
  holds := ⟨_, rfl, ((p6Final_inv.uarts 0).driver _ rfl).rxb, p6Final_contents⟩

/-- Settles O60: the legs of P6 one after the other, then the four bytes of `RXB` one by one. -/
theorem orderingHazardExists : Obligations.OrderingHazardExists := by
  obtain ⟨t₁, hget₁, hreply₁, hleft₁⟩ := p6Final_readyToGive.rxget
  obtain ⟨t₂, hget₂, hreply₂, hleft₂⟩ := hleft₁.rxget
  obtain ⟨t₃, hget₃, hreply₃, hleft₃⟩ := hleft₂.rxget
  obtain ⟨t₄, hget₄, hreply₄, -⟩ := hleft₃.rxget
  exact ⟨p6Booted, p6AtR1, p6Due, p6Overtaken, p6Final, t₁, t₂, t₃, t₄, p6_boot, p6_to_r1, rfl, rfl,
    p6State_received (by decide) (by decide), p6_to_due, p6Due_inv, rfl, rfl,
    p6State_received (by decide) (by decide), p6_overtakes, rfl, p6State_received (by decide) (by decide), p6_to_end,
    rfl, rfl, rfl, rfl, (Option.any_eq_true _ _).2 ⟨_, rfl, decide_eq_true ⟨p6Final_contents, rfl, rfl⟩⟩,
    hget₁, hreply₁, hget₂, hreply₂, hget₃, hreply₃, hget₄, hreply₄⟩

end Sys2Proof.Machine
end
